-- ==== Sys2Proof/Word.lean ====
section
/-! DEFINITION. The word types of the codec block (spec 00_scope.md R5, R6): a byte is 8 bits, a word16 is 16 bits,
a register value is 32 bits. Every quantity is unsigned; the byte-order helpers stand in Machine/Operands.lean. -/

namespace Sys2Proof

/-- A byte of the frame buffer (R6). -/
abbrev Byte := BitVec 8

/-- A word16: a port, the packet identifier, a checksum (R5, R6). -/
abbrev Half := BitVec 16

/-- A register value and a command word (R5, R90). -/
abbrev Word := BitVec 32

end Sys2Proof
end

