-- ==== Sys2Proof/Syntax.lean ====
section
/-! DEFINITION. The instructions of the codec block: the three commands of R91, one constructor per row of
spec/opcode_table.json. A command carries no immediate operand (R93): every operand is the value of a register. -/

namespace Sys2Proof

/-- The valid commands (R91). An invalid command word is no instruction: it is accepted and completes with BADCMD
(R92), which Machine/Invalid.lean gives. -/
inductive Instr where
  | csum    -- CSUM, the Internet checksum of a buffer span (R113)
  | parse   -- PARSE, validate a received frame and extract its endpoints and payload view (R130)
  | build   -- BUILD, synthesize an IPv4+UDP frame around a payload (R160)
  deriving DecidableEq, Repr

end Sys2Proof
end

