-- ==== Sys2Proof/WellFormed.lean ====
section
/-! DEFINITION. When a command word is well formed (R90, R91): its OP field [3:0] is assigned and its RSVD field [31:4]
is 0. Commands carry no operand (R93), so every term of Instr is well formed. -/

namespace Sys2Proof

/-- R91: OP is one of 0x1, 0x2, 0x3. -/
def opAssigned (w : Word) : Bool :=
  let op := w.extractLsb' 0 4
  op == 1#4 || op == 2#4 || op == 3#4

/-- R90: RSVD, bits [31:4], must be 0. -/
def rsvdZero (w : Word) : Bool := w.extractLsb' 4 28 == 0#28

/-- R91: a command word is valid exactly when both checks hold. -/
def wordValid (w : Word) : Bool := opAssigned w && rsvdZero w

/-- Every command is well formed: it has no operand field that could be out of range (R93). -/
def Instr.wellFormed : Instr → Bool
  | .csum => true
  | .parse => true
  | .build => true

end Sys2Proof
end

