-- ==== Sys2Proof/Decode.lean ====
section
/-! DEFINITION. The decoder of the command word, total on every 32-bit word and rejecting by name (R90 to R92), and the
encoder written from the same table. -/

namespace Sys2Proof

/-- Why a command word is invalid (R92). -/
inductive InvalidWord where
  | opUnassigned      -- OP = 0x0 or OP in 0x4..0xF, with any RSVD
  | reservedNonzero   -- OP in 0x1..0x3 with RSVD not 0
  deriving DecidableEq, Repr

/-- The OP field, bits [3:0] of a command word (R90); STATUS.LAST_OP records it at completion (R210). -/
def opField (w : Word) : BitVec 4 := w.extractLsb' 0 4

/-- R91: a decoder matches word = 0x00000001, 0x00000002, 0x00000003, else invalid. -/
def decode (w : Word) : Except InvalidWord Instr :=
  if w = 0x00000001#32 then .ok .csum
  else if w = 0x00000002#32 then .ok .parse
  else if w = 0x00000003#32 then .ok .build
  else if opAssigned w then .error .reservedNonzero
  else .error .opUnassigned

/-- The command word of a command: the "full word" column of R91's table. -/
def encode : Instr → Word
  | .csum => 0x00000001#32
  | .parse => 0x00000002#32
  | .build => 0x00000003#32

/-- The instruction the decoder reads from an opcode-table word of `nbits` bits. A command word is one 32-bit register
write (R90), so there is one word and its bits are numbered as the table numbers them. -/
def decodeTableWord (nbits w : Nat) : Option Instr :=
  let v := w % 2 ^ nbits
  if v < 2 ^ 32 then
    match decode (BitVec.ofNat 32 v) with
    | .ok i => some i
    | .error _ => none
  else none

end Sys2Proof
end

