-- ==== Sys2Proof/Config.lean ====
section
/-! DEFINITION. What an implementation fixes (R3) and the values the spec leaves open (93_implementation_defined.md
U3, U4, U5, U8). The free values are opaque constants: no proof can see what they are.
REG_BASE and BUF_BASE (R4) are ignored, as R4 allows: registers are addressed by offset and buffer bytes by buffer address. -/

namespace Sys2Proof

/-- The size parameter BUF_ADDR_BITS, an integer with 6 <= BUF_ADDR_BITS <= 24 (R3). It is a field of State (the CAPS
register), so a statement about every state is a statement about every configuration. -/
structure AddrBits where
  val : Nat
  six_le : 6 ≤ val
  le_24 : val ≤ 24
  deriving DecidableEq, Repr

namespace Config

/-- The reference configuration, BUF_ADDR_BITS = 16 (R3). -/
def referenceAddrBits : AddrBits := ⟨16, by decide, by decide⟩

/-- The byte the buffer holds at an address at power-on: unspecified (R232, U3), so a free value. Log entry 4. -/
opaque powerOnByte : Nat → Byte

/-- The n-th unspecified byte: a frame-span byte of a BUILD aborted by reset (R231, U4), or a byte of a running BUILD's
output span that the host reads (R237, U5). Log entry 5. -/
opaque freeByte : Nat → Byte

/-- How many further host accesses come before the completion of an accepted command, where State.delays holds no number
for it: any finite number, which the block chooses (R240, U8). Log entry 6. -/
opaque completionDelay : Nat → Nat

end Config

end Sys2Proof
end

