-- ==== Sys2Proof/Machine/State.lean ====
section
/-! DEFINITION. The state of the codec block (spec 10_state.md), the inputs the outside world has lined up for it, and
the reasons a step can stop. Every register keeps only its defined fields: a reserved bit has no home, so it reads 0 and
a value written to it is discarded (R50); Machine/Registers.lean composes the 32-bit register values. -/

namespace Sys2Proof.Machine

/-- The status codes (R201). Their numeric values stand in Machine/Flags.lean. -/
inductive StatusCode where
  | ok | notIpv4 | notUdp | truncated | size | afNoSupport | tooBig | badCmd | range
  deriving DecidableEq, Repr

/-- CTRL (R22). -/
structure Ctrl where
  ie    : Bool   -- [0] interrupt enable
  trace : Bool   -- [1] diagnostic-trace flag, no architectural effect (R54)
  deriving DecidableEq, Repr

/-- STATUS (R23), less BUSY, which is the engine phase (R51). -/
structure Status where
  done    : Bool         -- [1]
  ovr     : Bool         -- [2]
  rxValid : Bool         -- [3]
  err     : StatusCode   -- [11:8]
  lastOp  : BitVec 4     -- [15:12]
  deriving DecidableEq, Repr

/-- CS_BASE, CS_LEN (R26, R27). -/
structure CsumOperands where
  base : Word
  len  : Word
  deriving DecidableEq, Repr

/-- CS_RESULT[15:0], CS_ACC[15:0] (R28, R29). -/
structure CsumResults where
  result : Half
  acc    : Half
  deriving DecidableEq, Repr

/-- RX_BASE, RX_LEN (R30, R31). -/
structure ParseOperands where
  base : Word
  len  : Word
  deriving DecidableEq, Repr

/-- RX_SRC_ADDR, RX_SRC_PORT, RX_DST_ADDR, RX_DST_PORT, RX_PL_BASE, RX_PL_LEN (R32 to R37). -/
structure ParseResults where
  srcAddr : Word
  srcPort : Half
  dstAddr : Word
  dstPort : Half
  plBase  : Word
  plLen   : Word
  deriving DecidableEq, Repr

/-- TX_BASE, TX_CAP, TX_PL_BASE, TX_PL_LEN, TX_SRC_ADDR, TX_SRC_PORT, TX_DST_ADDR, TX_DST_PORT, TX_AF.SRC_AF,
TX_AF.DST_AF, PKT_ID (R38 to R47): what BUILD reads, and what is latched for it (R51). -/
structure BuildOperands where
  base    : Word
  cap     : Word
  plBase  : Word
  plLen   : Word
  srcAddr : Word
  srcPort : Half
  dstAddr : Word
  dstPort : Half
  srcAf   : BitVec 2
  dstAf   : BitVec 2
  pktId   : Half
  deriving DecidableEq, Repr

/-- The latched copy of the operand registers the command reads (R51); an invalid word reads none (R92). -/
inductive LatchedOperands where
  | none
  | csum (o : CsumOperands)
  | parse (o : ParseOperands)
  | build (o : BuildOperands)
  deriving DecidableEq, Repr

/-- The latched command (R51): the command word and the operand copy, taken when the command is accepted. -/
structure Latch where
  word : Word
  ops  : LatchedOperands
  deriving DecidableEq, Repr

/-- The engine phase (R51). -/
inductive Phase where
  | idle
  | busy (latch : Latch)
  deriving DecidableEq, Repr

/-- The frame buffer BUF (R53): the bytes written since power-on, as (buffer address, byte) pairs with strictly rising
addresses. An address that is not listed holds what it held at power-on (Config.powerOnByte). Log entry 4. -/
abbrev Memory := List Host.Cell

/-- The 27 registers of the REG aperture (R20). -/
inductive Reg where
  | caps | ctrl | status | cmd
  | csBase | csLen | csResult | csAcc
  | rxBase | rxLen | rxSrcAddr | rxSrcPort | rxDstAddr | rxDstPort | rxPlBase | rxPlLen
  | txBase | txCap | txPlBase | txPlLen | txSrcAddr | txSrcPort | txDstAddr | txDstPort | txAf | pktId | txLen
  deriving DecidableEq, Repr

/-- The access codes of R20. -/
inductive Access where
  | ro        -- read-only, writes ignored
  | rw        -- read-write at any time (CTRL)
  | rwGated   -- read-write, busy-gated
  | wo        -- write-only, busy-gated (CMD)
  | w1c       -- read, and bits cleared by writing 1 (STATUS)
  deriving DecidableEq, Repr

/-- The width of a host bus access (R61, R64). -/
inductive Width where
  | w8 | w16 | w32
  deriving DecidableEq, Repr

/-- What the outside world does to the block, one event of the total order of R74 each: a bus access of the host, the
host's polling loop, or a change of the reset input (R230). -/
inductive HostEvent where
  | regRead  (width : Width) (off : BitVec 8)
  | regWrite (width : Width) (off : BitVec 8) (v : Word)
  | bufRead  (width : Width) (addr : Nat)
  | bufWrite (width : Width) (addr : Nat) (v : Word)
  | wait          -- the pseudo-operation of R99: read STATUS until BUSY is 0
  | resetAssert
  | resetRelease
  deriving DecidableEq, Repr

/-- The block's answer to a bus access, its data as a 32-bit word whatever the width (log entry 16): read data, a completed write, or the error response of R203 (a read returns
its data with the error). -/
inductive BusResponse where
  | data (v : Word)
  | written
  | readError (v : Word)
  | writeError
  deriving DecidableEq, Repr

/-- Why the host program stops (93_implementation_defined.md U7, U10). -/
inductive HostFault where
  | busError        -- an access that gets a bus error (R203)
  | accessInReset   -- a bus access while reset is asserted (R230)
  deriving DecidableEq, Repr

/-- The host program: running, or stopped as in error. A stopped host performs no further access. Log entry 7. -/
inductive HostProgram where
  | running
  | faulted (cause : HostFault)
  deriving DecidableEq, Repr

/-- The machine. The fields down to `inReset` are the block's own (10_state.md section 1, 70_reset_and_hazards.md R230);
the six after it are the model's: what the outside world has lined up, what it was answered, and the bookkeeping of the
values the spec leaves open. -/
structure State where
  addrBits  : AddrBits          -- CAPS.BUF_ADDR_BITS (R21)
  ctrl      : Ctrl
  status    : Status
  csumOps   : CsumOperands
  csumRes   : CsumResults
  parseOps  : ParseOperands
  parseRes  : ParseResults
  buildOps  : BuildOperands
  txLen     : Word              -- TX_LEN (R48)
  buf       : Memory
  phase     : Phase
  inReset   : Bool              -- the reset input is asserted (R230)
  left      : Nat               -- while Busy: host accesses still to come before the completion (R240)
  delays    : List Nat          -- that number for the next accepted commands; after them it is a free value (R240)
  host      : HostProgram
  pending   : List HostEvent    -- what the outside world does next, in order (R74)
  responses : List BusResponse  -- the bus responses so far, newest first
  freeCount : Nat               -- how many free values have been used
  deriving DecidableEq, Repr

/-- Why the machine stops. Both are stops of the host program that leave no defined outcome for the block. -/
inductive Fault where
  /-- Raised by a BUF write, while a command is Busy, to a byte the command reads or a BUILD may write (R236, U6).
  Safe: the machine stops where the results would be unspecified. -/
  | hazardWrite
  /-- Raised by a BUF access outside the aperture, at an address the spec says does not exist (R60, R64).
  Safe: the machine stops. -/
  | noSuchAddress
  deriving DecidableEq, Repr

/-- Why an instruction has no meaning. -/
inductive Refusal where
  /-- Raised by exec for an instruction that has no meaning in the model yet. Safe: the machine stops. No arm of exec
  raises it. -/
  | notModelled (mnemonic : String)
  deriving DecidableEq, Repr

/-- The block right after power-on and reset in the reference configuration (R3, R230, R232, R233): every register 0,
CAPS configured, phase Idle, the buffer as it was at power-on, the reset input released, and nothing lined up. -/
def State.reset : State where
  addrBits := Config.referenceAddrBits
  ctrl := { ie := false, trace := false }
  status := { done := false, ovr := false, rxValid := false, err := .ok, lastOp := 0 }
  csumOps := { base := 0, len := 0 }
  csumRes := { result := 0, acc := 0 }
  parseOps := { base := 0, len := 0 }
  parseRes := { srcAddr := 0, srcPort := 0, dstAddr := 0, dstPort := 0, plBase := 0, plLen := 0 }
  buildOps := { base := 0, cap := 0, plBase := 0, plLen := 0, srcAddr := 0, srcPort := 0, dstAddr := 0, dstPort := 0,
                srcAf := 0, dstAf := 0, pktId := 0 }
  txLen := 0
  buf := []
  phase := .idle
  inReset := false
  left := 0
  delays := []
  host := .running
  pending := []
  responses := []
  freeCount := 0

end Sys2Proof.Machine
end

