-- ==== Sys2Proof/Machine/Ops.lean ====
section
/-! DEFINITION. The shared operations: the frame buffer by bytes and spans (R8, R70), the completion of a command
(R210, the block's only counterpart of trap entry) and its acknowledgement (R211), and the bookkeeping of bus accesses. -/

namespace Sys2Proof.Machine

/-- The byte listed at address `a`, if there is one. -/
def Memory.find : Memory → Nat → Option Byte
  | [], _ => none
  | (k, v) :: rest, a => if k = a then some v else if a < k then none else Memory.find rest a

/-- BUF[a]: the byte written there last, or the byte the address held at power-on (R53, R232). -/
def Memory.read (m : Memory) (a : Nat) : Byte :=
  match m.find a with
  | some v => v
  | none => Config.powerOnByte a

/-- BUF[a] <- v. The list stays sorted, with one entry for an address. -/
def Memory.write : Memory → Nat → Byte → Memory
  | [], a, v => [(a, v)]
  | (k, w) :: rest, a, v =>
    if a < k then (a, v) :: (k, w) :: rest
    else if a = k then (a, v) :: rest
    else (k, w) :: Memory.write rest a v

/-- MemRead(a, n) of R8: the byte sequence BUF[a], ..., BUF[a+n-1]. -/
def Memory.readSpan (m : Memory) (a : Nat) : Nat → List Byte
  | 0 => []
  | n + 1 => m.read a :: Memory.readSpan m (a + 1) n

/-- MemWrite(a, n, s) of R8, n the length of s: BUF[a+k] <- s[k]. -/
def Memory.writeSpan (m : Memory) (a : Nat) : List Byte → Memory
  | [] => m
  | b :: bs => (Memory.writeSpan m (a + 1) bs).write a b

/-- The canonical form: addresses strictly rising. (Unlisted addresses read as a free value, so no listed byte can be
known to equal one.) -/
def Memory.wf : Memory → Bool
  | [] => true
  | [_] => true
  | c :: d :: rest => decide (c.1 < d.1) && Memory.wf (d :: rest)

/-- BUF_SIZE = 2^BUF_ADDR_BITS (R3). -/
def State.bufSize (s : State) : Nat := 2 ^ s.addrBits.val

/-- The region check of R70, on unbounded naturals: base + len <= BUF_SIZE. -/
def State.spanInBuf (s : State) (base len : Nat) : Bool := decide (base + len ≤ s.bufSize)

/-- Whether address `a` is in the span (base, len) (R9). -/
def inSpan (base len a : Nat) : Bool := decide (base ≤ a) && decide (a < base + len)

/-- STATUS.BUSY: 1 exactly while the phase is Busy (R23, R51). -/
def State.isBusy (s : State) : Bool :=
  match s.phase with
  | .idle => false
  | .busy _ => true

/-- Completion (R210): STATUS.ERR <- code, STATUS.LAST_OP <- word[3:0], STATUS.DONE <- 1, STATUS.BUSY <- 0 (phase Idle,
the latched command dropped), in the same step as the command's own effects. -/
def State.complete (s : State) (op : BitVec 4) (code : StatusCode) : State :=
  { s with
    phase := .idle
    status := { s.status with done := true, err := code, lastOp := op } }

/-- Acknowledgement (R211): DONE <- 0. -/
def State.acknowledge (s : State) : State :=
  { s with status := { s.status with done := false } }

/-- A busy-gated write while Busy is lost and recorded (R63, R204): STATUS.OVR <- 1. -/
def State.overrun (s : State) : State :=
  { s with status := { s.status with ovr := true } }

/-- The block answers a bus access. -/
def State.respond (s : State) (r : BusResponse) : State :=
  { s with responses := r :: s.responses }

/-- The host program stops as in error; the block's state is unchanged (R203, U7, U10). Log entry 7. -/
def State.hostFaults (s : State) (cause : HostFault) : State :=
  { s with host := .faulted cause }

/-- The next event of the outside world has happened. -/
def State.pop (s : State) : State :=
  { s with pending := s.pending.tail }

/-- One more host access has come before the completion of the running command (R240). -/
def State.tick (s : State) : State :=
  { s with left := s.left - 1 }

/-- `n` free values have been used. -/
def State.useFree (s : State) (n : Nat) : State :=
  { s with freeCount := s.freeCount + n }

/-- The next `n` unspecified bytes (R231, R237). -/
def State.freeBytes (s : State) (n : Nat) : List Byte :=
  (List.range n).map fun k => Config.freeByte (s.freeCount + k)

end Sys2Proof.Machine
end

