-- ==== Sys2Proof/Machine/Operands.lean ====
section
/-! DEFINITION. Every operand form: the byte-order primitives of R7, the little-endian lanes of the BUF port (R65), the
latched command (R51) and the operands a command reads through it (R71, R93), and the fields of a received frame (R97). -/

namespace Sys2Proof.Machine

/-- be16(b0, b1) = b0 * 256 + b1 (R7). -/
def be16 (b0 b1 : Byte) : Half := BitVec.ofNat 16 (b0.toNat * 256 + b1.toNat)

/-- be32(b0, b1, b2, b3) = b0 * 2^24 + b1 * 2^16 + b2 * 2^8 + b3 (R7). -/
def be32 (b0 b1 b2 b3 : Byte) : Word :=
  BitVec.ofNat 32 (b0.toNat * 2 ^ 24 + b1.toNat * 2 ^ 16 + b2.toNat * 2 ^ 8 + b3.toNat)

/-- bytes_be16(v) = [v[15:8], v[7:0]] (R7). -/
def bytesBe16 (v : Half) : List Byte := [v.extractLsb' 8 8, v.extractLsb' 0 8]

/-- bytes_be32(v) = [v[31:24], v[23:16], v[15:8], v[7:0]] (R7). -/
def bytesBe32 (v : Word) : List Byte :=
  [v.extractLsb' 24 8, v.extractLsb' 16 8, v.extractLsb' 8 8, v.extractLsb' 0 8]

/-- zext_32 of a 16-bit value (R6). -/
def zext32 (v : Half) : Word := v.setWidth 32

/-- The number of bytes a bus access moves (R64). -/
def Width.bytes : Width → Nat
  | .w8 => 1
  | .w16 => 2
  | .w32 => 4

/-- The number whose little-endian bytes are `bs`. -/
def leNat : List Byte → Nat
  | [] => 0
  | b :: bs => b.toNat + 256 * leNat bs

/-- The bus data that carries the bytes `bs`, bits [8k+7:8k] carrying byte k (R65). DESIGN CHOICE, log entry 16: R65 speaks
of 16- and 32-bit accesses; the byte of an 8-bit read goes into bits [7:0], and the bits above the access are 0. -/
def leWord (bs : List Byte) : Word := BitVec.ofNat 32 (leNat bs)

/-- The `n` bytes the bus data `v` carries, byte k in bits [8k+7:8k] (R65). DESIGN CHOICE, log entry 16: R65 speaks of 16-
and 32-bit accesses; an 8-bit write takes its byte from bits [7:0], and the bits above the access are ignored. -/
def leBytes (n : Nat) (v : Word) : List Byte :=
  (List.range n).map fun k => v.extractLsb' (8 * k) 8

/-- The operand registers the command of word `w` reads, copied (R51, R91). -/
def State.latchedOperands (s : State) (w : Word) : LatchedOperands :=
  match decode w with
  | .ok .csum => .csum s.csumOps
  | .ok .parse => .parse s.parseOps
  | .ok .build => .build s.buildOps
  | .error _ => .none

/-- The latched command that accepting the word `w` makes (R51). -/
def State.latchOf (s : State) (w : Word) : Latch :=
  { word := w, ops := s.latchedOperands w }

/-- How many host accesses come before the completion of the next accepted command (R240): the next entry of the
schedule the state holds, and a free value where it holds none. Log entry 6. -/
def State.nextDelay (s : State) : Nat :=
  match s.delays with
  | d :: _ => d
  | [] => Config.completionDelay s.freeCount

/-- Accepting the command word `w` (R63): DONE <- 0, latch, phase <- Busy. -/
def State.accept (s : State) (w : Word) : State :=
  { s.acknowledge with
    phase := .busy (s.latchOf w)
    left := s.nextDelay
    delays := s.delays.tail
    freeCount := s.freeCount + 1 }

/-- The operands of CSUM: the latched copy (R71), which equals the registers (R51). -/
def State.csumOperands (s : State) : CsumOperands :=
  match s.phase with
  | .busy { ops := .csum o, .. } => o
  | _ => s.csumOps

/-- The operands of PARSE: the latched copy (R71), which equals the registers (R51). -/
def State.parseOperands (s : State) : ParseOperands :=
  match s.phase with
  | .busy { ops := .parse o, .. } => o
  | _ => s.parseOps

/-- The operands of BUILD: the latched copy (R71), which equals the registers (R51). -/
def State.buildOperands (s : State) : BuildOperands :=
  match s.phase with
  | .busy { ops := .build o, .. } => o
  | _ => s.buildOps

/-- Byte `i` of the received frame: b[i] of R97, where b = MemRead(RX_BASE, RX_LEN). -/
def State.frameByte (s : State) (o : ParseOperands) (i : Nat) : Byte := s.buf.read (o.base.toNat + i)

/-- version = b[0][7:4] (R97). -/
def State.frameVersion (s : State) (o : ParseOperands) : BitVec 4 := (s.frameByte o 0).extractLsb' 4 4

/-- IHL = b[0][3:0] (R97). -/
def State.frameIhl (s : State) (o : ParseOperands) : Nat := ((s.frameByte o 0).extractLsb' 0 4).toNat

/-- hlen = 4 * IHL, from 0 to 60 (R97). -/
def State.frameHeaderLen (s : State) (o : ParseOperands) : Nat := 4 * s.frameIhl o

/-- The header offset: off = hlen + 8 (R97). -/
def State.frameOffset (s : State) (o : ParseOperands) : Nat := s.frameHeaderLen o + 8

/-- The big-endian 16-bit field at frame byte `i`. -/
def State.frameHalf (s : State) (o : ParseOperands) (i : Nat) : Half :=
  be16 (s.frameByte o i) (s.frameByte o (i + 1))

/-- The big-endian 32-bit field at frame byte `i`. -/
def State.frameWord (s : State) (o : ParseOperands) (i : Nat) : Word :=
  be32 (s.frameByte o i) (s.frameByte o (i + 1)) (s.frameByte o (i + 2)) (s.frameByte o (i + 3))

end Sys2Proof.Machine
end

