-- ==== Sys2Proof/Machine/Flags.lean ====
section
/-! DEFINITION. The status codes' values and classes (R201), the STATUS and CTRL registers as words (R22, R23), the W1C
write of STATUS (R24), and the interrupt output (R52). -/

namespace Sys2Proof.Machine

/-- The value STATUS.ERR reads for a status code (R201). -/
def StatusCode.code : StatusCode → BitVec 4
  | .ok => 0x0
  | .notIpv4 => 0x1
  | .notUdp => 0x2
  | .truncated => 0x3
  | .size => 0x8
  | .afNoSupport => 0x9
  | .tooBig => 0xA
  | .badCmd => 0xC
  | .range => 0xD

/-- The class of a status code, ERR[3:2] (R201): 0b00 transient (when the code is not OK), 0b10 caller-usage, 0b11
programming. -/
def StatusCode.cls (c : StatusCode) : BitVec 2 := c.code.extractLsb' 2 2

/-- One bit as a word, at position `i`. -/
def bitAt (i : Nat) (b : Bool) : Word := if b then 1#32 <<< i else 0#32

/-- CTRL as it reads: IE [0], TRACE [1], the rest 0 (R22). -/
def Ctrl.toWord (c : Ctrl) : Word := bitAt 0 c.ie ||| bitAt 1 c.trace

/-- A write of CTRL: the reserved bits are discarded (R22). -/
def Ctrl.ofWord (v : Word) : Ctrl := { ie := v.getLsbD 0, trace := v.getLsbD 1 }

/-- STATUS as it reads (R23): BUSY [0], DONE [1], OVR [2], RX_VALID [3], ERR [11:8], LAST_OP [15:12], the rest 0. -/
def State.statusWord (s : State) : Word :=
  bitAt 0 s.isBusy ||| bitAt 1 s.status.done ||| bitAt 2 s.status.ovr ||| bitAt 3 s.status.rxValid
    ||| (s.status.err.code.setWidth 32 <<< 8) ||| (s.status.lastOp.setWidth 32 <<< 12)

/-- A write of `w` to STATUS (R24): w[1] = 1 clears DONE, w[2] = 1 clears OVR, every other bit is ignored. -/
def State.writeStatus (s : State) (w : Word) : State :=
  { s with
    status := { s.status with
      done := s.status.done && !w.getLsbD 1
      ovr := s.status.ovr && !w.getLsbD 2 } }

/-- The interrupt output, a level: CTRL.IE AND STATUS.DONE (R52, R205). -/
def State.irq (s : State) : Bool := s.ctrl.ie && s.status.done

end Sys2Proof.Machine
end

