-- ==== Sys2Proof/Machine/Registers.lean ====
section
/-! DEFINITION. The REG aperture: the register map (R20), the access codes, the reserved bits (R50), and what a read and
a write of each register do (R62, R63). -/

namespace Sys2Proof.Machine

/-- The offset of a register (R20). -/
def Reg.offset : Reg → BitVec 8
  | .caps => 0x00
  | .ctrl => 0x04
  | .status => 0x08
  | .cmd => 0x0C
  | .csBase => 0x10
  | .csLen => 0x14
  | .csResult => 0x18
  | .csAcc => 0x1C
  | .rxBase => 0x20
  | .rxLen => 0x24
  | .rxSrcAddr => 0x28
  | .rxSrcPort => 0x2C
  | .rxDstAddr => 0x30
  | .rxDstPort => 0x34
  | .rxPlBase => 0x38
  | .rxPlLen => 0x3C
  | .txBase => 0x40
  | .txCap => 0x44
  | .txPlBase => 0x48
  | .txPlLen => 0x4C
  | .txSrcAddr => 0x50
  | .txSrcPort => 0x54
  | .txDstAddr => 0x58
  | .txDstPort => 0x5C
  | .txAf => 0x60
  | .pktId => 0x64
  | .txLen => 0x68

/-- The registers in the order of R20's table. -/
def Reg.all : List Reg :=
  [.caps, .ctrl, .status, .cmd, .csBase, .csLen, .csResult, .csAcc, .rxBase, .rxLen, .rxSrcAddr, .rxSrcPort,
   .rxDstAddr, .rxDstPort, .rxPlBase, .rxPlLen]
  ++ [.txBase, .txCap, .txPlBase, .txPlLen, .txSrcAddr, .txSrcPort, .txDstAddr, .txDstPort, .txAf, .pktId, .txLen]

/-- The register at a 4-aligned offset; none where the offset is unmapped (R49). -/
def Reg.atOffset (off : BitVec 8) : Option Reg := Reg.all.find? fun r => r.offset == off

/-- The access code of a register (R20). -/
def Reg.access : Reg → Access
  | .caps => .ro
  | .ctrl => .rw
  | .status => .w1c
  | .cmd => .wo
  | .csBase => .rwGated
  | .csLen => .rwGated
  | .csResult => .ro
  | .csAcc => .ro
  | .rxBase => .rwGated
  | .rxLen => .rwGated
  | .rxSrcAddr => .ro
  | .rxSrcPort => .ro
  | .rxDstAddr => .ro
  | .rxDstPort => .ro
  | .rxPlBase => .ro
  | .rxPlLen => .ro
  | .txBase => .rwGated
  | .txCap => .rwGated
  | .txPlBase => .rwGated
  | .txPlLen => .rwGated
  | .txSrcAddr => .rwGated
  | .txSrcPort => .rwGated
  | .txDstAddr => .rwGated
  | .txDstPort => .rwGated
  | .txAf => .rwGated
  | .pktId => .rwGated
  | .txLen => .ro

/-- The bits of a register that its table calls fields; the others are reserved (R21 to R48). CMD's reserved bits make
the word invalid instead of being discarded (R50, R92). -/
def Reg.fieldMask : Reg → Word
  | .caps => 0x000000FF
  | .ctrl => 0x00000003
  | .status => 0x0000FF0F
  | .csResult => 0x0000FFFF
  | .csAcc => 0x0000FFFF
  | .rxSrcPort => 0x0000FFFF
  | .rxDstPort => 0x0000FFFF
  | .txSrcPort => 0x0000FFFF
  | .txDstPort => 0x0000FFFF
  | .txAf => 0x00000303
  | .pktId => 0x0000FFFF
  | .cmd => 0xFFFFFFFF
  | .csBase => 0xFFFFFFFF
  | .csLen => 0xFFFFFFFF
  | .rxBase => 0xFFFFFFFF
  | .rxLen => 0xFFFFFFFF
  | .rxSrcAddr => 0xFFFFFFFF
  | .rxDstAddr => 0xFFFFFFFF
  | .rxPlBase => 0xFFFFFFFF
  | .rxPlLen => 0xFFFFFFFF
  | .txBase => 0xFFFFFFFF
  | .txCap => 0xFFFFFFFF
  | .txPlBase => 0xFFFFFFFF
  | .txPlLen => 0xFFFFFFFF
  | .txSrcAddr => 0xFFFFFFFF
  | .txDstAddr => 0xFFFFFFFF
  | .txLen => 0xFFFFFFFF

/-- The value a register reads (R62): its current value with reserved bits 0, and 0 for CMD. -/
def State.readReg (s : State) : Reg → Word
  | .caps => BitVec.ofNat 32 s.addrBits.val
  | .ctrl => s.ctrl.toWord
  | .status => s.statusWord
  | .cmd => 0
  | .csBase => s.csumOps.base
  | .csLen => s.csumOps.len
  | .csResult => zext32 s.csumRes.result
  | .csAcc => zext32 s.csumRes.acc
  | .rxBase => s.parseOps.base
  | .rxLen => s.parseOps.len
  | .rxSrcAddr => s.parseRes.srcAddr
  | .rxSrcPort => zext32 s.parseRes.srcPort
  | .rxDstAddr => s.parseRes.dstAddr
  | .rxDstPort => zext32 s.parseRes.dstPort
  | .rxPlBase => s.parseRes.plBase
  | .rxPlLen => s.parseRes.plLen
  | .txBase => s.buildOps.base
  | .txCap => s.buildOps.cap
  | .txPlBase => s.buildOps.plBase
  | .txPlLen => s.buildOps.plLen
  | .txSrcAddr => s.buildOps.srcAddr
  | .txSrcPort => zext32 s.buildOps.srcPort
  | .txDstAddr => s.buildOps.dstAddr
  | .txDstPort => zext32 s.buildOps.dstPort
  | .txAf => s.buildOps.srcAf.setWidth 32 ||| (s.buildOps.dstAf.setWidth 32 <<< 8)
  | .pktId => zext32 s.buildOps.pktId
  | .txLen => s.txLen

/-- x[r] <- v for a busy-gated operand register, its reserved bits discarded (R26 to R47, R50); no other register has
an operand to store. -/
def State.storeOperand (s : State) (v : Word) : Reg → State
  | .csBase => { s with csumOps := { s.csumOps with base := v } }
  | .csLen => { s with csumOps := { s.csumOps with len := v } }
  | .rxBase => { s with parseOps := { s.parseOps with base := v } }
  | .rxLen => { s with parseOps := { s.parseOps with len := v } }
  | .txBase => { s with buildOps := { s.buildOps with base := v } }
  | .txCap => { s with buildOps := { s.buildOps with cap := v } }
  | .txPlBase => { s with buildOps := { s.buildOps with plBase := v } }
  | .txPlLen => { s with buildOps := { s.buildOps with plLen := v } }
  | .txSrcAddr => { s with buildOps := { s.buildOps with srcAddr := v } }
  | .txSrcPort => { s with buildOps := { s.buildOps with srcPort := v.setWidth 16 } }
  | .txDstAddr => { s with buildOps := { s.buildOps with dstAddr := v } }
  | .txDstPort => { s with buildOps := { s.buildOps with dstPort := v.setWidth 16 } }
  | .txAf => { s with buildOps := { s.buildOps with srcAf := v.extractLsb' 0 2, dstAf := v.extractLsb' 8 2 } }
  | .pktId => { s with buildOps := { s.buildOps with pktId := v.setWidth 16 } }
  | .caps | .ctrl | .status | .cmd | .csResult | .csAcc => s
  | .rxSrcAddr | .rxSrcPort | .rxDstAddr | .rxDstPort | .rxPlBase | .rxPlLen | .txLen => s

/-- A write of `v` to a register, by its access code and the engine phase (R63). -/
def State.writeReg (s : State) (v : Word) (r : Reg) : State :=
  match r.access with
  | .ro => s
  | .rw => { s with ctrl := Ctrl.ofWord v }
  | .w1c => s.writeStatus v
  | .wo => if s.isBusy then s.overrun else s.accept v
  | .rwGated => if s.isBusy then s.overrun else s.storeOperand v r

/-- A legal REG read at an offset: 0 where it is unmapped (R49, R62). -/
def State.readOffset (s : State) (off : BitVec 8) : Word :=
  match Reg.atOffset off with
  | some r => s.readReg r
  | none => 0

/-- A legal REG write at an offset: ignored where it is unmapped (R49, R63). -/
def State.writeOffset (s : State) (off : BitVec 8) (v : Word) : State :=
  match Reg.atOffset off with
  | some r => s.writeReg v r
  | none => s

end Sys2Proof.Machine
end

