-- ==== Sys2Proof/Machine/Reset.lean ====
section
/-! DEFINITION. The reset input (R230 to R233), and the block as power-on and reset leave it in any configuration. -/

namespace Sys2Proof.Machine

/-- Every register but CAPS takes its reset value and the engine becomes Idle with no latched command (R230); CAPS, the
buffer and what is outside the block keep theirs (R21, R232). -/
def State.resetRegisters (s : State) : State :=
  { s with
    ctrl := State.reset.ctrl
    status := State.reset.status
    csumOps := State.reset.csumOps
    csumRes := State.reset.csumRes
    parseOps := State.reset.parseOps
    parseRes := State.reset.parseRes
    buildOps := State.reset.buildOps
    txLen := State.reset.txLen
    phase := .idle
    left := 0 }

/-- A BUILD aborted by reset leaves each byte of its frame span (TX_BASE .. TX_BASE + 27 + TX_PL_LEN) unspecified, when
that span passes the region check (R231); nothing else of the buffer changes. Log entry 8. -/
def State.abortCommand (s : State) : State :=
  match s.phase with
  | .busy { ops := .build o, .. } =>
    let n := 28 + o.plLen.toNat
    if s.spanInBuf o.base.toNat n then
      { s with buf := s.buf.writeSpan o.base.toNat (s.freeBytes n) }.useFree n
    else s
  | _ => s

/-- Reset is asserted (R230, R231): a running command is aborted and the registers take their reset values. -/
def State.assertReset (s : State) : State :=
  { s.abortCommand.resetRegisters with inReset := true }

/-- Reset is released: the block takes bus accesses at once (R230). -/
def State.releaseReset (s : State) : State :=
  { s with inReset := false }

/-- The block right after power-on and reset, for a configuration, the buffer's bytes written so far, the events of the
outside world, and when commands complete among them (R3, R232, U8: unconstrained arguments). -/
def State.powerOn (bits : AddrBits) (buf : Memory) (program : List HostEvent) (delays : List Nat) : State :=
  { State.reset with addrBits := bits, buf := buf, pending := program, delays := delays }

end Sys2Proof.Machine
end

