-- ==== Sys2Proof/Machine/Bus.lean ====
section
/-! DEFINITION. The host's accesses to the two apertures (R60 to R65, R203), the hazards of a running command (R236,
R237), and which agent moves next (R74, R240). -/

namespace Sys2Proof.Machine

/-- R61: a REG access is 32 bits wide at an offset that is a multiple of 4. -/
def regLegal (width : Width) (off : BitVec 8) : Bool := width == .w32 && off.toNat % 4 == 0

/-- R64: a BUF access is naturally aligned. -/
def bufAligned (width : Width) (addr : Nat) : Bool := addr % width.bytes == 0

/-- R236: a byte a running command reads, or that a running BUILD may write. -/
def State.hazardByte (s : State) (a : Nat) : Bool :=
  match s.phase with
  | .busy { ops := .csum o, .. } => inSpan o.base.toNat o.len.toNat a
  | .busy { ops := .parse o, .. } => inSpan o.base.toNat o.len.toNat a
  | .busy { ops := .build o, .. } => inSpan o.plBase.toNat o.plLen.toNat a || inSpan o.base.toNat o.cap.toNat a
  | .busy { ops := .none, .. } => false
  | .idle => false

/-- R237: a byte of a running BUILD's output span (TX_BASE, TX_CAP). -/
def State.outputByte (s : State) (a : Nat) : Bool :=
  match s.phase with
  | .busy { ops := .build o, .. } => inSpan o.base.toNat o.cap.toNat a
  | _ => false

/-- The bytes a host read of `n` bytes at `a` returns: BUF[a+k] as it stands, and an unspecified value for a byte of a
running BUILD's output span (R64, R237). -/
def State.hostReadBytes (s : State) (a n : Nat) : List Byte :=
  (List.range n).map fun k =>
    if s.outputByte (a + k) then Config.freeByte (s.freeCount + k) else s.buf.read (a + k)

/-- How many free values that read uses. -/
def State.hostReadFree (s : State) (a n : Nat) : Nat :=
  if (List.range n).any fun k => s.outputByte (a + k) then n else 0

/-- A host read of the REG aperture (R61, R62, R203). -/
def State.hostRegRead (s : State) (width : Width) (off : BitVec 8) : Host.Outcome State Fault Refusal :=
  if regLegal width off then .next (s.respond (.data (s.readOffset off)))
  else .next ((s.respond (.readError 0)).hostFaults .busError)

/-- A host write of the REG aperture (R61, R63, R203). -/
def State.hostRegWrite (s : State) (width : Width) (off : BitVec 8) (v : Word) : Host.Outcome State Fault Refusal :=
  if regLegal width off then .next ((s.writeOffset off v).respond .written)
  else .next ((s.respond .writeError).hostFaults .busError)

/-- A host read of the BUF aperture (R64, R65, R203, R237). -/
def State.hostBufRead (s : State) (width : Width) (addr : Nat) : Host.Outcome State Fault Refusal :=
  if s.bufSize ≤ addr then .fault .noSuchAddress
  else if bufAligned width addr then
    .next ((s.useFree (s.hostReadFree addr width.bytes)).respond (.data (leWord (s.hostReadBytes addr width.bytes))))
  else .next ((s.respond (.readError 0)).hostFaults .busError)

/-- A host write of the BUF aperture (R64, R65, R203, R236). -/
def State.hostBufWrite (s : State) (width : Width) (addr : Nat) (v : Word) : Host.Outcome State Fault Refusal :=
  if s.bufSize ≤ addr then .fault .noSuchAddress
  else if bufAligned width addr then
    if (List.range width.bytes).any fun k => s.hazardByte (addr + k) then .fault .hazardWrite
    else .next ({ s with buf := s.buf.writeSpan addr (leBytes width.bytes v) }.respond .written)
  else .next ((s.respond .writeError).hostFaults .busError)

/-- One bus access of the host, taken off the list: not performed by a host program that has stopped, and a fault of the
host program while reset is asserted (R230, U10); otherwise performed, and counted for R240. -/
def State.hostAccess (s : State) (access : State → Host.Outcome State Fault Refusal) :
    Host.Outcome State Fault Refusal :=
  match s.host with
  | .faulted _ => .next s.pop
  | .running => if s.inReset then .next (s.pop.hostFaults .accessInReset) else access s.pop.tick

/-- One read of STATUS in the host's polling loop (R99): while it returns BUSY = 1 the loop stays lined up. -/
def State.hostPoll (s : State) : Host.Outcome State Fault Refusal :=
  match s.host with
  | .faulted _ => .next s.pop
  | .running =>
    if s.inReset then .next (s.pop.hostFaults .accessInReset)
    else if s.isBusy then .next (s.tick.respond (.data (s.readReg .status)))
    else .next (s.pop.tick.respond (.data (s.readReg .status)))

/-- One event of the outside world. -/
def State.hostStep (s : State) : HostEvent → Host.Outcome State Fault Refusal
  | .regRead width off => s.hostAccess fun t => t.hostRegRead width off
  | .regWrite width off v => s.hostAccess fun t => t.hostRegWrite width off v
  | .bufRead width addr => s.hostAccess fun t => t.hostBufRead width addr
  | .bufWrite width addr v => s.hostAccess fun t => t.hostBufWrite width addr v
  | .wait => s.hostPoll
  | .resetAssert => .next s.pop.assertReset
  | .resetRelease => .next s.pop.releaseReset

/-- Which agent moves next. -/
inductive Turn where
  | engine (word : Word)       -- the running command of this word completes
  | host (e : HostEvent)       -- the next event of the outside world happens
  | idle                       -- nothing is running and nothing is lined up
  deriving DecidableEq, Repr

/-- The engine completes the running command once the host accesses it lets come first are over, or when nothing more is
lined up (R240: finite, at a point the block chooses); otherwise the outside world moves. Log entry 6. -/
def State.turn (s : State) : Turn :=
  match s.phase, s.pending with
  | .busy l, [] => .engine l.word
  | .busy l, e :: _ => if s.left = 0 then .engine l.word else .host e
  | .idle, e :: _ => .host e
  | .idle, [] => .idle

end Sys2Proof.Machine
end

