-- ==== Sys2Proof/Machine/Checksum.lean ====
section
/-! DEFINITION. The checksum family: InetCsum (R110) and the command CSUM (R113). -/

namespace Sys2Proof.Machine

/-- The seed of the sum, ones'-complement "all ones" (R110). -/
def csumSeed : Nat := 0xFFFF

/-- acc[15:0] + acc[16]: the end-around carry (R110). -/
def foldCarry (acc : Nat) : Nat := acc % 2 ^ 16 + acc / 2 ^ 16

/-- The loop of R110 from the accumulator `acc`: big-endian words, one fold after each addition, and an odd last byte
taken as the high byte of a word whose low byte is 0. -/
def csumLoop (acc : Nat) : List Byte → Nat
  | [] => acc
  | [b] => foldCarry (acc + (be16 b 0).toNat)
  | b0 :: b1 :: rest => csumLoop (foldCarry (acc + (be16 b0 b1).toNat)) rest

/-- InetCsum(b) = (S, C): the final folded sum and its complement (R110). -/
def inetCsum (b : List Byte) : Half × Half :=
  let sum : Half := BitVec.ofNat 16 (csumLoop csumSeed b)
  (sum, ~~~sum)

/-- CS_ACC and CS_RESULT are written (R28, R29). -/
def State.setCsum (s : State) (acc result : Half) : State :=
  { s with csumRes := { result := result, acc := acc } }

/-- CSUM (R113): the checksum of the span (CS_BASE, CS_LEN), RANGE where the span leaves the buffer. -/
def execCsum (s : State) : Host.Outcome State Fault Refusal :=
  let o := s.csumOperands
  if s.spanInBuf o.base.toNat o.len.toNat then
    let r := inetCsum (s.buf.readSpan o.base.toNat o.len.toNat)
    .next ((s.setCsum r.1 r.2).complete 0x1 .ok)
  else
    .next ((s.setCsum 0 0).complete 0x1 .range)

end Sys2Proof.Machine
end

