-- ==== Sys2Proof/Machine/Build.lean ====
section
/-! DEFINITION. The build family: the command BUILD (R160). -/

namespace Sys2Proof.Machine

/-- The frame's length: 20 + 8 + payload.length (R160). -/
def BuildOperands.total (o : BuildOperands) : Nat := 28 + o.plLen.toNat

/-- The failure BUILD reports, the first that holds in the order of R161: RANGE, TOOBIG, SIZE, AFNOSUPPORT; none when
the frame can be built. -/
def State.buildFailure (s : State) (o : BuildOperands) : Option StatusCode :=
  if !(s.spanInBuf o.base.toNat o.cap.toNat && s.spanInBuf o.plBase.toNat o.plLen.toNat) then some .range
  else if 65535 < o.total then some .tooBig
  else if o.cap.toNat < o.total then some .size
  else if o.srcAf ≠ 0 ∨ o.dstAf ≠ 0 then some .afNoSupport
  else none

/-- The 20 bytes of the IPv4 header (R162), with `csum` in the checksum field. -/
def BuildOperands.ipHeader (o : BuildOperands) (csum : Half) : List Byte :=
  [0x45, 0x00] ++ bytesBe16 (BitVec.ofNat 16 o.total) ++ bytesBe16 o.pktId ++ [0x00, 0x00, 0x3F, 0x11]
    ++ bytesBe16 csum ++ bytesBe32 o.srcAddr ++ bytesBe32 o.dstAddr

/-- The IPv4 header checksum (R165): C of InetCsum over the 20 header bytes with the checksum field 0. -/
def BuildOperands.headerCsum (o : BuildOperands) : Half := (inetCsum (o.ipHeader 0)).2

/-- The 8 bytes of the UDP header (R163). -/
def BuildOperands.udpHeader (o : BuildOperands) : List Byte :=
  bytesBe16 o.srcPort ++ bytesBe16 o.dstPort ++ bytesBe16 (BitVec.ofNat 16 (8 + o.plLen.toNat)) ++ [0x00, 0x00]

/-- The frame around the payload `p` (R160): the header with its checksum injected, the UDP header, the payload. -/
def BuildOperands.frame (o : BuildOperands) (p : List Byte) : List Byte :=
  o.ipHeader o.headerCsum ++ o.udpHeader ++ p

/-- TX_LEN is written (R48). -/
def State.setTxLen (s : State) (v : Word) : State := { s with txLen := v }

/-- The effects of a successful BUILD (R160): the frame around the payload as it stood before is written at TX_BASE (R71,
R164), TX_LEN is its length (R167), and the counter advances modulo 2^16 (R166). -/
def State.writeFrame (s : State) (o : BuildOperands) : State :=
  { s with
    buf := s.buf.writeSpan o.base.toNat (o.frame (s.buf.readSpan o.plBase.toNat o.plLen.toNat))
    txLen := BitVec.ofNat 32 o.total
    buildOps := { s.buildOps with pktId := o.pktId + 1 } }

/-- BUILD (R160). A failure writes TX_LEN <- 0 and nothing else (R168). -/
def execBuild (s : State) : Host.Outcome State Fault Refusal :=
  let o := s.buildOperands
  match s.buildFailure o with
  | some code => .next ((s.setTxLen 0).complete 0x3 code)
  | none => .next ((s.writeFrame o).complete 0x3 .ok)

end Sys2Proof.Machine
end

