-- ==== Sys2Proof/Machine/Parse.lean ====
section
/-! DEFINITION. The parse family: the command PARSE (R130). -/

namespace Sys2Proof.Machine

/-- The UDP protocol number (R134). -/
def udpProtocol : Byte := 17

/-- The failure PARSE reports, the first that holds in the order of R206: RANGE, TRUNCATED (step 1), NOT_IPV4, NOT_UDP,
TRUNCATED (step 4); none when the frame is accepted. IHL < 5 is not rejected (R140). -/
def State.parseFailure (s : State) (o : ParseOperands) : Option StatusCode :=
  if !s.spanInBuf o.base.toNat o.len.toNat then some .range
  else if o.len.toNat < 20 then some .truncated
  else if s.frameVersion o ≠ 4 then some .notIpv4
  else if s.frameByte o 9 ≠ udpProtocol then some .notUdp
  else if o.len.toNat < s.frameOffset o then some .truncated
  else none

/-- What a successful PARSE yields (R136): the address fields at 12 and 16, the port fields at hlen and hlen + 2, and
the payload view after the header offset. -/
def State.parseFields (s : State) (o : ParseOperands) : ParseResults where
  srcAddr := s.frameWord o 12
  srcPort := s.frameHalf o (s.frameHeaderLen o)
  dstAddr := s.frameWord o 16
  dstPort := s.frameHalf o (s.frameHeaderLen o + 2)
  plBase := BitVec.ofNat 32 (o.base.toNat + s.frameOffset o)
  plLen := BitVec.ofNat 32 (o.len.toNat - s.frameOffset o)

/-- The six RX_ results of a failed PARSE (R141). -/
def parseCleared : ParseResults :=
  { srcAddr := 0, srcPort := 0, dstAddr := 0, dstPort := 0, plBase := 0, plLen := 0 }

/-- The RX_ results and STATUS.RX_VALID are written (R130, R141). -/
def State.setParse (s : State) (r : ParseResults) (valid : Bool) : State :=
  { s with parseRes := r, status := { s.status with rxValid := valid } }

/-- PARSE (R130). -/
def execParse (s : State) : Host.Outcome State Fault Refusal :=
  let o := s.parseOperands
  match s.parseFailure o with
  | some code => .next ((s.setParse parseCleared false).complete 0x2 code)
  | none => .next ((s.setParse (s.parseFields o) true).complete 0x2 .ok)

end Sys2Proof.Machine
end

