-- ==== Sys2Proof/Machine/Invalid.lean ====
section
/-! DEFINITION. The completion of an invalid command word (R92, R209). -/

namespace Sys2Proof.Machine

/-- An invalid word completes with BADCMD: it reads no operand and writes nothing but STATUS.ERR, STATUS.LAST_OP and
STATUS.DONE (R92). -/
def execInvalid (w : Word) (s : State) : Host.Outcome State Fault Refusal :=
  .next (s.complete (opField w) .badCmd)

end Sys2Proof.Machine
end

