-- ==== Sys2Proof/Machine/Step.lean ====
section
/-! DEFINITION. One step of the block: one event of the total order of R74, which is a completion or an event of the
outside world. -/

namespace Sys2Proof.Machine

/-- The completion of the command of word `w`: decoding comes first (R209), then the command's meaning, or BADCMD. -/
def runWord (w : Word) (s : State) : Host.Outcome State Fault Refusal :=
  match decode w with
  | .ok i => exec i s
  | .error _ => execInvalid w s

/-- One step. With nothing running and nothing lined up the block does nothing (R233). -/
def step (s : State) : Host.Outcome State Fault Refusal :=
  match s.turn with
  | .engine w => runWord w s
  | .host e => s.hostStep e
  | .idle => .next s

/-- The state in which the very next step runs the command of the opcode-table word `w`: the word is latched with the
operand registers as they stand (R51), out of reset, and no further host access comes before its completion.
Log entry 3. -/
def State.withFetchWord (s : State) (nbits w : Nat) : State :=
  { s with
    phase := .busy (s.latchOf (BitVec.ofNat 32 (w % 2 ^ nbits)))
    left := 0
    inReset := false }

end Sys2Proof.Machine
end

