-- ==== Sys2Proof/Machine/Script.lean ====
section
/-! DEFINITION. The host-script notation (R98) and its pseudo-operations (R99), as the bus events they stand for. -/

namespace Sys2Proof.Machine.Script

/-- `wr NAME, v` (R98). -/
def wr (r : Reg) (v : Word) : List HostEvent := [.regWrite .w32 r.offset v]

/-- `rd NAME` (R98). -/
def rd (r : Reg) : List HostEvent := [.regRead .w32 r.offset]

/-- `wrb a, b0 b1 ... bk` (R98): 8-bit BUF writes, in address order. -/
def wrb (a : Nat) : List Byte → List HostEvent
  | [] => []
  | b :: bs => .bufWrite .w8 a (b.setWidth 32) :: wrb (a + 1) bs

/-- `rdb a, n` (R98): n 8-bit BUF reads. -/
def rdb (a : Nat) : Nat → List HostEvent
  | 0 => []
  | n + 1 => .bufRead .w8 a :: rdb (a + 1) n

/-- `repeat n { ... }` (R98). -/
def repeatN : Nat → List HostEvent → List HostEvent
  | 0, _ => []
  | n + 1, es => es ++ repeatN n es

/-- `expect NAME = v` (R98): a check has no bus effect beyond the read it names. -/
def expectReg (r : Reg) : List HostEvent := rd r

/-- `expect BUF[a..a+n-1] = bytes` (R98). -/
def expectBuf (a n : Nat) : List HostEvent := rdb a n

/-- `CSUM`, `PARSE`, `BUILD` (R99): the write of the command's word to CMD. -/
def command (i : Instr) : List HostEvent := wr .cmd (encode i)

/-- `run OP` (R99): the command, then `wait`. -/
def run (i : Instr) : List HostEvent := command i ++ [.wait]

/-- `ack` (R99): clear DONE and OVR. -/
def acknowledge : List HostEvent := wr .status 0x00000006

/-- `endpoint_tx sa:sp -> da:dp` (R99). -/
def endpointTx (sa sp da dp : Word) : List HostEvent :=
  wr .txSrcAddr sa ++ wr .txSrcPort sp ++ wr .txDstAddr da ++ wr .txDstPort dp

end Sys2Proof.Machine.Script
end

