-- ==== Sys2Proof/Safety.lean ====
section
/-! DEFINITION. What a safe run is, the invariant of the block, and the words the statements use: which block state an
event leaves alone, the word sum of R112, the spans a command names. -/

namespace Sys2Proof.Machine

/-- One step goes on and the host program is still running: no hazard (R236), no bus error (R203), no access while reset
is asserted (R230). -/
def State.SafeStep (s : State) : Prop := ∃ t, step s = .next t ∧ t.host = .running

/-- `t` is reached from `s` by steps that go on. -/
inductive Reaches : State → State → Prop where
  | refl (s : State) : Reaches s s
  | step {s t u : State} : Reaches s t → Machine.step t = .next u → Reaches s u

/-- The block's registers, CAPS among them, are the same in both states (R21 to R48). -/
structure SameRegisters (s t : State) : Prop where
  addrBits : t.addrBits = s.addrBits
  ctrl : t.ctrl = s.ctrl
  status : t.status = s.status
  csumOps : t.csumOps = s.csumOps
  csumRes : t.csumRes = s.csumRes
  parseOps : t.parseOps = s.parseOps
  parseRes : t.parseRes = s.parseRes
  buildOps : t.buildOps = s.buildOps
  txLen : t.txLen = s.txLen

/-- The block's whole state is the same in both states: its registers, every buffer byte, the engine phase with the
latched command, and the reset input. -/
structure SameBlock (s t : State) : Prop extends SameRegisters s t where
  buf : t.buf = s.buf
  phase : t.phase = s.phase
  inReset : t.inReset = s.inReset

/-- The spans a command names (R70). -/
def State.namedSpans (s : State) : Instr → List (Nat × Nat)
  | .csum => [(s.csumOperands.base.toNat, s.csumOperands.len.toNat)]
  | .parse => [(s.parseOperands.base.toNat, s.parseOperands.len.toNat)]
  | .build => [(s.buildOperands.base.toNat, s.buildOperands.cap.toNat),
               (s.buildOperands.plBase.toNat, s.buildOperands.plLen.toNat)]

/-- The spans whose bytes a command reads (R236). -/
def State.readSpans (s : State) : Instr → List (Nat × Nat)
  | .csum => [(s.csumOperands.base.toNat, s.csumOperands.len.toNat)]
  | .parse => [(s.parseOperands.base.toNat, s.parseOperands.len.toNat)]
  | .build => [(s.buildOperands.plBase.toNat, s.buildOperands.plLen.toNat)]

/-- W of R112: the sum of the big-endian words of `b`, an odd last byte being the high byte of a word whose low byte is
0, as an unbounded natural. -/
def wordSum : List Byte → Nat
  | [] => 0
  | [b] => b.toNat * 256
  | b0 :: b1 :: rest => (b0.toNat * 256 + b1.toNat) + wordSum rest

/-- The conditions under which BUILD runs to OK (R161: none of its four tests fails). -/
structure State.BuildOk (s : State) : Prop where
  output : s.buildOperands.base.toNat + s.buildOperands.cap.toNat ≤ s.bufSize
  payload : s.buildOperands.plBase.toNat + s.buildOperands.plLen.toNat ≤ s.bufSize
  lengths : 28 + s.buildOperands.plLen.toNat ≤ 65535
  capacity : 28 + s.buildOperands.plLen.toNat ≤ s.buildOperands.cap.toNat
  families : s.buildOperands.srcAf = 0 ∧ s.buildOperands.dstAf = 0

/-- The next event is this bus access, a running host makes it, and reset is not asserted. -/
structure State.Accesses (s : State) (e : HostEvent) : Prop where
  turn : s.turn = .host e
  running : s.host = .running
  outOfReset : s.inReset = false

/-- The state with the trace flag set to `b` (R54). -/
def State.withTrace (s : State) (b : Bool) : State := { s with ctrl := { s.ctrl with trace := b } }

/-- The status codes STATUS.ERR can hold beside a value of STATUS.LAST_OP (R202; R23 for the reset values): those of the
command, and BADCMD, which an invalid word with the same bits [3:0] gives. -/
def codesOf (op : BitVec 4) : List StatusCode :=
  if op = 0 then [.ok, .badCmd]
  else if op = 1 then [.ok, .range, .badCmd]
  else if op = 2 then [.ok, .range, .truncated, .notIpv4, .notUdp, .badCmd]
  else if op = 3 then [.ok, .range, .tooBig, .size, .afNoSupport, .badCmd]
  else [.badCmd]

/-- The invariant of the block. -/
structure State.Inv (s : State) : Prop where
  /-- The memory list is in its canonical form. -/
  bufSorted : s.buf.wf = true
  /-- The buffer holds BUF_SIZE bytes, addresses 0 to BUF_SIZE-1 (R53). -/
  bufInside : ∀ c ∈ s.buf, c.1 < s.bufSize
  /-- The latched copy always equals the registers (R51). -/
  latchCopies : ∀ l, s.phase = .busy l → l = s.latchOf l.word
  /-- DONE is 0 from acceptance until completion (R211). -/
  busyNotDone : s.isBusy = true → s.status.done = false
  /-- While reset is asserted every register holds its reset value and the engine is Idle (R230). -/
  resetHeld : s.inReset = true → s.resetRegisters = s
  /-- CS_RESULT is the complement of CS_ACC after a successful CSUM, and both are 0 otherwise (R28, R29, R111). -/
  checksumPair : s.csumRes = { result := 0, acc := 0 } ∨ (s.csumRes.acc ≠ 0 ∧ s.csumRes.result = ~~~s.csumRes.acc)
  /-- Without a valid parse the six RX_ results are 0 (R23, R141). -/
  parseCleared : s.status.rxValid = false → s.parseRes = Machine.parseCleared
  /-- The payload view lies in the buffer (R70, R136). -/
  viewInside : s.parseRes.plBase.toNat + s.parseRes.plLen.toNat ≤ s.bufSize
  /-- TX_LEN is 0 or the length of a frame BUILD makes (R48, R171). -/
  txLenRange : s.txLen = 0 ∨ (28 ≤ s.txLen.toNat ∧ s.txLen.toNat ≤ 65535)
  /-- ERR is a code the last command can produce (R202). -/
  errOfLastOp : s.status.err ∈ codesOf s.status.lastOp

end Sys2Proof.Machine
end

