-- ==== Sys2Proof/Certificates/Slice0/Obligations.lean ====
section
/-! DEFINITION. The statements about the codec block, each from the rules of spec/ its docstring names. -/

open Sys2Proof Sys2Proof.Machine

/-! ### Encoding and completion -/

/-- R91: a command word is valid exactly when it equals one of three values. -/
def Obligations.CommandWordsDecode : Prop :=
  ∀ w : Word,
    (decode w = .ok .csum ↔ w = 0x00000001) ∧ (decode w = .ok .parse ↔ w = 0x00000002) ∧
    (decode w = .ok .build ↔ w = 0x00000003)

/-- R91: decoding an encoded command gives it back, and every valid word is the encoding of its command. -/
def Obligations.DecodeInvertsEncode : Prop :=
  (∀ i : Instr, i.wellFormed = true → decode (encode i) = .ok i) ∧
  (∀ (w : Word) (i : Instr), decode w = .ok i → encode i = w) ∧
  decodeTableWord 32 0x1 = some .csum ∧ decodeTableWord 32 0x2 = some .parse ∧
  decodeTableWord 32 0x3 = some .build ∧ decodeTableWord 32 0x13 = none

/-- R92: which words are invalid; an invalid word is accepted while Idle, and completes with BADCMD, writing nothing but
ERR, LAST_OP and DONE. -/
def Obligations.InvalidWordsCompleteWithBadCmd : Prop :=
  (∀ w : Word, (∀ i, decode w ≠ .ok i) ↔
    ((w.extractLsb' 0 4 ≠ 1 ∧ w.extractLsb' 0 4 ≠ 2 ∧ w.extractLsb' 0 4 ≠ 3) ∨ w.extractLsb' 4 28 ≠ 0)) ∧
  (∀ (s : State) (w : Word), (∀ i, decode w ≠ .ok i) → s.phase = .idle →
    (s.writeOffset 0x0C w).phase = .busy { word := w, ops := .none }) ∧
  (∀ (s : State) (l : Latch), s.phase = .busy l → (s.left = 0 ∨ s.pending = []) → (∀ i, decode l.word ≠ .ok i) →
    step s = .next { s with
      phase := .idle
      status := { s.status with done := true, err := .badCmd, lastOp := l.word.extractLsb' 0 4 } })

/-- A step runs the decoded command when it is its turn (R209, R240), and otherwise performs the next event of the
outside world; `withFetchWord` makes the command of a word the very next step (log entries 3 and 6). -/
def Obligations.StepRunsDecodedCommand : Prop :=
  (∀ (s : State) (l : Latch) (i : Instr), s.phase = .busy l → (s.left = 0 ∨ s.pending = []) →
    decode l.word = .ok i → step s = exec i s) ∧
  (∀ (s : State) (e : HostEvent) (rest : List HostEvent), s.pending = e :: rest →
    (s.phase = .idle ∨ s.left ≠ 0) → step s = s.hostStep e) ∧
  (∀ s : State, s.phase = .idle → s.pending = [] → step s = .next s) ∧
  (∀ (s : State) (w : Nat) (i : Instr), decodeTableWord 32 w = some i →
    step (s.withFetchWord 32 w) = exec i (s.withFetchWord 32 w))

/-- R201: the values of the status codes, and their classes ERR[3:2]. -/
def Obligations.StatusCodeValuesAndClasses : Prop :=
  StatusCode.ok.code = 0x0 ∧ StatusCode.notIpv4.code = 0x1 ∧ StatusCode.notUdp.code = 0x2 ∧
  StatusCode.truncated.code = 0x3 ∧ StatusCode.size.code = 0x8 ∧ StatusCode.afNoSupport.code = 0x9 ∧
  StatusCode.tooBig.code = 0xA ∧ StatusCode.badCmd.code = 0xC ∧ StatusCode.range.code = 0xD ∧
  (∀ c : StatusCode, c.cls = 0b00 ↔ c ∈ [StatusCode.ok, .notIpv4, .notUdp, .truncated]) ∧
  (∀ c : StatusCode, c.cls = 0b10 ↔ c ∈ [StatusCode.size, .afNoSupport, .tooBig]) ∧
  (∀ c : StatusCode, c.cls = 0b11 ↔ c ∈ [StatusCode.badCmd, .range])

/-- R210: what completion records, in the step of the command's own effects. -/
def Obligations.CompletionRecordsTheCommand : Prop :=
  ∀ (s : State) (w : Word), s.turn = .engine w →
    ∃ t, step s = .next t ∧ t.phase = .idle ∧ t.status.done = true ∧ t.status.lastOp = w.extractLsb' 0 4 ∧
      t.status.ovr = s.status.ovr ∧ t.ctrl = s.ctrl ∧ t.irq = s.ctrl.ie ∧
      ((∀ i, decode w ≠ .ok i) → t.status.err = .badCmd) ∧
      (decode w = .ok .parse → (t.status.rxValid = true ↔ t.status.err = .ok)) ∧
      (decode w ≠ .ok .parse → t.status.rxValid = s.status.rxValid)

/-- R202: which codes each command can produce: each completes with one of its codes on every state, and each of them
arises on some state. -/
def Obligations.CodesEachCommandProduces : Prop :=
  let codes : Instr → List StatusCode := fun i =>
    match i with
    | .csum => [.ok, .range]
    | .parse => [.ok, .range, .truncated, .notIpv4, .notUdp]
    | .build => [.ok, .range, .tooBig, .size, .afNoSupport]
  (∀ (i : Instr) (s : State), ∃ t, exec i s = .next t ∧ t.status.err ∈ codes i) ∧
  (∀ (i : Instr) (c : StatusCode), c ∈ codes i → ∃ s t, exec i s = .next t ∧ t.status.err = c) ∧
  (∀ (s : State) (w : Word), (∀ i, decode w ≠ .ok i) → s.turn = .engine w →
    ∃ t, step s = .next t ∧ t.status.err = .badCmd)

/-- R70: a command completes with RANGE exactly when a span it names leaves the buffer, computed without wrap-around,
and then its outcome does not depend on any buffer byte. -/
def Obligations.RegionCheckComesFirst : Prop :=
  (∀ (i : Instr) (s : State), ∃ t, exec i s = .next t ∧
    (t.status.err = .range ↔ ∃ p ∈ s.namedSpans i, s.bufSize < p.1 + p.2) ∧
    (t.status.err = .range → t.buf = s.buf ∧
      ∀ m : Memory, exec i { s with buf := m } = .next { t with buf := m })) ∧
  (∀ (s : State) (base : Nat), s.spanInBuf base 0 = true ↔ base ≤ s.bufSize)

/-! ### CSUM and the checksum -/

/-- R113: CSUM completes on every state. On a span inside the buffer it writes CS_ACC = S and CS_RESULT = C, in the closed
form of R112, on any other 0 and 0 with RANGE; nothing else but STATUS and the phase changes. -/
def Obligations.CsumSumsItsSpan : Prop :=
  ∀ s : State,
    let o := s.csumOperands
    let W := wordSum (s.buf.readSpan o.base.toNat o.len.toNat)
    (o.base.toNat + o.len.toNat ≤ s.bufSize →
      ∃ r : CsumResults,
        exec .csum s = .next { s with
          csumRes := r, phase := .idle, status := { s.status with done := true, err := .ok, lastOp := 1 } } ∧
        r.acc.toNat = (W + 65534) % 65535 + 1 ∧ r.result.toNat = 0xFFFF - ((W + 65534) % 65535 + 1)) ∧
    (s.bufSize < o.base.toNat + o.len.toNat →
      exec .csum s = .next { s with
        csumRes := { result := 0, acc := 0 }
        phase := .idle
        status := { s.status with done := true, err := .range, lastOp := 1 } })

/-- R112: the closed form of InetCsum, its uniqueness, when C is 0, and that the order of the words does not matter but
the place of a byte in its word does. -/
def Obligations.InetCsumClosedForm : Prop :=
  (∀ b : List Byte, (inetCsum b).1.toNat = (wordSum b + 65534) % 65535 + 1 ∧
    (inetCsum b).2.toNat = 0xFFFF - (inetCsum b).1.toNat ∧
    (∀ x : Nat, 1 ≤ x → x ≤ 0xFFFF → x % 65535 = wordSum b % 65535 → x = (inetCsum b).1.toNat) ∧
    ((inetCsum b).2 = 0x0000 ↔ wordSum b % 65535 = 0)) ∧
  (∀ ws ws' : List (Byte × Byte), ws.Perm ws' →
    inetCsum (ws.flatMap fun p => [p.1, p.2]) = inetCsum (ws'.flatMap fun p => [p.1, p.2])) ∧
  inetCsum [0x01, 0x02] ≠ inetCsum [0x02, 0x01]

/-- R111: after the seed and after every fold the accumulator is in 1..0xFFFF; a sum before a fold is at most 0x1FFFE, so
one fold leaves no carry; S is never 0x0000 and C is never 0xFFFF. -/
def Obligations.AccumulatorStaysInRange : Prop :=
  (1 ≤ csumSeed ∧ csumSeed ≤ 0xFFFF) ∧
  (∀ acc w : Nat, 1 ≤ acc → acc ≤ 0xFFFF → w ≤ 0xFFFF →
    acc + w ≤ 0x1FFFE ∧ 1 ≤ foldCarry (acc + w) ∧ foldCarry (acc + w) ≤ 0xFFFF ∧
    foldCarry (acc + w) = if acc + w < 0x10000 then acc + w else acc + w - 0xFFFF) ∧
  (∀ b : List Byte, 1 ≤ csumLoop csumSeed b ∧ csumLoop csumSeed b ≤ 0xFFFF ∧
    (inetCsum b).1 ≠ 0x0000 ∧ (inetCsum b).2 ≠ 0xFFFF)

/-- R117: a checksum put into a zero field at an even index makes the whole sum to (0xFFFF, 0x0000). -/
def Obligations.ChecksumRoundTrip : Prop :=
  ∀ (b : List Byte) (j : Nat), b.length % 2 = 0 → j % 2 = 0 → b[j]? = some 0 → b[j + 1]? = some 0 →
    inetCsum ((b.set j ((inetCsum b).2.extractLsb' 8 8)).set (j + 1) ((inetCsum b).2.extractLsb' 0 8)) =
      (0xFFFF, 0x0000)

/-- R118: seeded at 0 the sum of an input with W = 0 stays 0, so that its complement is 0xFFFF, where the block gives
0x0000; for W > 0 the two agree, and no header BUILD writes has W = 0. -/
def Obligations.SeedZeroRelation : Prop :=
  (∀ b : List Byte,
    (wordSum b = 0 → csumLoop 0 b = 0 ∧ (inetCsum b).2 = 0x0000) ∧
    (0 < wordSum b → csumLoop 0 b = (inetCsum b).1.toNat)) ∧
  (∀ (o : BuildOperands) (c : Half), 0 < wordSum (o.ipHeader c))

/-! ### PARSE -/

/-- R136, R140: what a successful PARSE yields, on every frame that passes the four steps, IHL < 5 included. -/
def Obligations.ParseExtractsEndpoints : Prop :=
  ∀ s : State,
    let o := s.parseOperands
    let b := fun i => (s.buf.read (o.base.toNat + i)).toNat
    let hlen := 4 * (b 0 % 16)
    o.base.toNat + o.len.toNat ≤ s.bufSize → 20 ≤ o.len.toNat → b 0 / 16 = 4 → b 9 = 17 →
    hlen + 8 ≤ o.len.toNat →
    ∃ r : ParseResults,
      exec .parse s = .next { s with
        parseRes := r
        phase := .idle
        status := { s.status with done := true, rxValid := true, err := .ok, lastOp := 2 } } ∧
      r.srcAddr.toNat = b 12 * 2 ^ 24 + b 13 * 2 ^ 16 + b 14 * 2 ^ 8 + b 15 ∧
      r.dstAddr.toNat = b 16 * 2 ^ 24 + b 17 * 2 ^ 16 + b 18 * 2 ^ 8 + b 19 ∧
      r.srcPort.toNat = b hlen * 256 + b (hlen + 1) ∧
      r.dstPort.toNat = b (hlen + 2) * 256 + b (hlen + 3) ∧
      r.plBase.toNat = o.base.toNat + (hlen + 8) ∧
      r.plLen.toNat = o.len.toNat - (hlen + 8)

/-- R206: PARSE reports the first failure that holds. -/
def Obligations.ParseReportsFirstFailure : Prop :=
  ∀ s : State,
    let o := s.parseOperands
    let b := fun i => (s.buf.read (o.base.toNat + i)).toNat
    ∃ t, exec .parse s = .next t ∧
      t.status.err =
        if s.bufSize < o.base.toNat + o.len.toNat then StatusCode.range
        else if o.len.toNat < 20 then .truncated
        else if b 0 / 16 ≠ 4 then .notIpv4
        else if b 9 ≠ 17 then .notUdp
        else if o.len.toNat < 4 * (b 0 % 16) + 8 then .truncated
        else .ok

/-- R141: a failed PARSE leaves no partial result. -/
def Obligations.FailedParseLeavesNoResult : Prop :=
  ∀ s t : State, exec .parse s = .next t → t.status.err ≠ .ok →
    t.status.rxValid = false ∧ t.parseRes.srcAddr = 0 ∧ t.parseRes.srcPort = 0 ∧ t.parseRes.dstAddr = 0 ∧
    t.parseRes.dstPort = 0 ∧ t.parseRes.plBase = 0 ∧ t.parseRes.plLen = 0

/-- R142: PARSE writes nothing but the six RX_ results and STATUS, and two PARSEs over the same bytes give the same
results. -/
def Obligations.ParseWritesOnlyItsResults : Prop :=
  (∀ s : State, ∃ t, exec .parse s = .next t ∧
    t = { s with
      parseRes := t.parseRes
      phase := .idle
      status := { s.status with
        done := true, rxValid := t.status.rxValid, err := t.status.err, lastOp := 2 } }) ∧
  (∀ s s' : State, s.addrBits = s'.addrBits → s.parseOperands = s'.parseOperands →
    (∀ a, inSpan s.parseOperands.base.toNat s.parseOperands.len.toNat a = true → s.buf.read a = s'.buf.read a) →
    ∃ t t', exec .parse s = .next t ∧ exec .parse s' = .next t' ∧
      t.parseRes = t'.parseRes ∧ t.status.err = t'.status.err ∧ t.status.rxValid = t'.status.rxValid)

/-- R138: PARSE ignores every frame byte but 0, 9, 12 to 19 and the four port bytes at 4*IHL: two buffers that agree on
those give the same outcome, whatever their other bytes hold. -/
def Obligations.ParseIgnoresOtherFields : Prop :=
  ∀ (s : State) (m : Memory),
    let base := s.parseOperands.base.toNat
    let hlen := 4 * ((s.buf.read base).toNat % 16)
    (∀ i, i = 0 ∨ i = 9 ∨ (12 ≤ i ∧ i ≤ 19) ∨ (hlen ≤ i ∧ i ≤ hlen + 3) →
      m.read (base + i) = s.buf.read (base + i)) →
    ∃ t, exec .parse s = .next t ∧ exec .parse { s with buf := m } = .next { t with buf := m }

/-! ### BUILD -/

/-- R161, R207: BUILD reports the first failure that holds, and a failure writes no buffer byte. -/
def Obligations.BuildReportsFirstFailure : Prop :=
  ∀ s : State,
    let o := s.buildOperands
    ∃ t, exec .build s = .next t ∧
      (t.status.err =
        if s.bufSize < o.base.toNat + o.cap.toNat ∨ s.bufSize < o.plBase.toNat + o.plLen.toNat then StatusCode.range
        else if 65535 < 28 + o.plLen.toNat then .tooBig
        else if o.cap.toNat < 28 + o.plLen.toNat then .size
        else if o.srcAf ≠ 0 ∨ o.dstAf ≠ 0 then .afNoSupport
        else .ok) ∧
      (t.status.err ≠ .ok → t.buf = s.buf)

/-- R160: when no test fails BUILD completes with OK, TX_LEN is the frame's length (R167), the counter has advanced
(R166), and nothing but the buffer, those two, STATUS and the phase has changed. -/
def Obligations.BuildCompletesWhenChecksPass : Prop :=
  ∀ s : State, s.BuildOk →
    ∃ (m : Memory) (len : Word) (id : Half),
      exec .build s = .next { s with
        buf := m
        txLen := len
        buildOps := { s.buildOps with pktId := id }
        phase := .idle
        status := { s.status with done := true, err := .ok, lastOp := 3 } } ∧
      len.toNat = 28 + s.buildOperands.plLen.toNat ∧
      id.toNat = (s.buildOperands.pktId.toNat + 1) % 2 ^ 16

/-- R168: a failed BUILD writes TX_LEN <- 0 and STATUS, and nothing else. -/
def Obligations.FailedBuildChangesNothingElse : Prop :=
  ∀ s t : State, exec .build s = .next t → t.status.err ≠ .ok →
    t = { s with
      txLen := 0
      phase := .idle
      status := { s.status with done := true, err := t.status.err, lastOp := 3 } }

/-- R162: the IPv4 header at TX_BASE, byte by byte. -/
def Obligations.BuildWritesIpHeader : Prop :=
  ∀ s t : State, exec .build s = .next t → t.status.err = .ok →
    let o := s.buildOperands
    let b := fun i => (t.buf.read (o.base.toNat + i)).toNat
    b 0 = 0x45 ∧ b 1 = 0x00 ∧ b 2 * 256 + b 3 = 28 + o.plLen.toNat ∧ b 4 * 256 + b 5 = o.pktId.toNat ∧
    b 6 = 0x00 ∧ b 7 = 0x00 ∧ b 8 = 0x3F ∧ b 9 = 0x11 ∧
    b 10 * 256 + b 11 = (inetCsum (((t.buf.readSpan o.base.toNat 20).set 10 0).set 11 0)).2.toNat ∧
    b 12 * 2 ^ 24 + b 13 * 2 ^ 16 + b 14 * 2 ^ 8 + b 15 = o.srcAddr.toNat ∧
    b 16 * 2 ^ 24 + b 17 * 2 ^ 16 + b 18 * 2 ^ 8 + b 19 = o.dstAddr.toNat

/-- R165: bytes 10 and 11 hold C of InetCsum over the 20 header bytes with that field 0, high byte first, and the header
then sums to (0xFFFF, 0x0000). -/
def Obligations.BuildInjectsChecksum : Prop :=
  ∀ s t : State, exec .build s = .next t → t.status.err = .ok →
    let base := s.buildOperands.base.toNat
    let header := t.buf.readSpan base 20
    let C := (inetCsum ((header.set 10 0).set 11 0)).2
    t.buf.read (base + 10) = C.extractLsb' 8 8 ∧ t.buf.read (base + 11) = C.extractLsb' 0 8 ∧
    inetCsum header = (0xFFFF, 0x0000)

/-- R163: the UDP header at TX_BASE + 20, byte by byte. -/
def Obligations.BuildWritesUdpHeader : Prop :=
  ∀ s t : State, exec .build s = .next t → t.status.err = .ok →
    let o := s.buildOperands
    let b := fun i => (t.buf.read (o.base.toNat + 20 + i)).toNat
    b 0 * 256 + b 1 = o.srcPort.toNat ∧ b 2 * 256 + b 3 = o.dstPort.toNat ∧
    b 4 * 256 + b 5 = 8 + o.plLen.toNat ∧ b 6 = 0x00 ∧ b 7 = 0x00

/-- R164: the payload bytes in order, wherever the payload span lies, as they stood before the completion step. That these
are the bytes as they stood at acceptance, which is what R164 says, is log entry 13 (DEDUCED); HostCannotChangeRunningCommand
is the bridge. -/
def Obligations.BuildCopiesPayload : Prop :=
  ∀ s t : State, exec .build s = .next t → t.status.err = .ok →
    ∀ k, k < s.buildOperands.plLen.toNat →
      t.buf.read (s.buildOperands.base.toNat + 28 + k) = s.buf.read (s.buildOperands.plBase.toNat + k)

/-- R169: every byte outside the 28 + TX_PL_LEN bytes from TX_BASE keeps its value. -/
def Obligations.BuildWritesOnlyTheFrame : Prop :=
  ∀ s t : State, exec .build s = .next t → t.status.err = .ok →
    ∀ a, inSpan s.buildOperands.base.toNat (28 + s.buildOperands.plLen.toNat) a = false →
      t.buf.read a = s.buf.read a

/-- R170: whatever its outcome, BUILD writes no CS_RESULT, CS_ACC, RX_ register or STATUS.RX_VALID, nor any register but
TX_LEN, PKT_ID and STATUS. -/
def Obligations.BuildWritesOnlyItsRegisters : Prop :=
  ∀ s : State, ∃ t, exec .build s = .next t ∧
    t = { s with
      buf := t.buf
      txLen := t.txLen
      buildOps := { s.buildOps with pktId := t.buildOps.pktId }
      phase := .idle
      status := { s.status with done := true, err := t.status.err, lastOp := 3 } }

/-- R166: a BUILD that completes with OK writes the counter's value into the identification field and leaves it advanced
by 1 modulo 2^16; a failed BUILD leaves it unchanged. -/
def Obligations.BuildAdvancesCounter : Prop :=
  ∀ s : State, ∃ t, exec .build s = .next t ∧
    (t.status.err = .ok →
      (t.buf.read (s.buildOperands.base.toNat + 4)).toNat * 256 + (t.buf.read (s.buildOperands.base.toNat + 5)).toNat
          = s.buildOperands.pktId.toNat ∧
      t.buildOps.pktId.toNat = (s.buildOperands.pktId.toNat + 1) % 2 ^ 16) ∧
    (t.status.err ≠ .ok → t.buildOps.pktId = s.buildOps.pktId)

/-- R171: total length is 28 + L, UDP length is 8 + L, TX_LEN is 28 + L, none of them reduced. -/
def Obligations.BuildLengthFieldsAgree : Prop :=
  ∀ s t : State, exec .build s = .next t → t.status.err = .ok →
    let o := s.buildOperands
    let b := fun i => (t.buf.read (o.base.toNat + i)).toNat
    o.plLen.toNat ≤ 65507 ∧ b 2 * 256 + b 3 = 28 + o.plLen.toNat ∧ b 24 * 256 + b 25 = 8 + o.plLen.toNat ∧
    t.txLen.toNat = 28 + o.plLen.toNat

/-- R172: for fixed endpoints and payload length, two BUILDs whose identifications differ by a multiple of 65535 write the
same header checksum; the example's checksums. -/
def Obligations.IdentificationChecksumPeriod : Prop :=
  let checksumBytes := fun (s t : State) =>
    (t.buf.read (s.buildOperands.base.toNat + 10), t.buf.read (s.buildOperands.base.toNat + 11))
  (∀ s t s' t' : State, exec .build s = .next t → t.status.err = .ok → exec .build s' = .next t' →
    t'.status.err = .ok → s.buildOperands.srcAddr = s'.buildOperands.srcAddr →
    s.buildOperands.dstAddr = s'.buildOperands.dstAddr → s.buildOperands.plLen = s'.buildOperands.plLen →
    s.buildOperands.pktId.toNat % 65535 = s'.buildOperands.pktId.toNat % 65535 →
    checksumBytes s t = checksumBytes s' t') ∧
  (∀ s t : State, exec .build s = .next t → t.status.err = .ok → s.buildOperands.srcAddr = 0x0A000001 →
    s.buildOperands.dstAddr = 0x0A000002 → s.buildOperands.plLen = 4 →
    (s.buildOperands.pktId = 0 → checksumBytes s t = (0x67, 0xCB)) ∧
    (s.buildOperands.pktId = 1 → checksumBytes s t = (0x67, 0xCA)) ∧
    (s.buildOperands.pktId = 2 → checksumBytes s t = (0x67, 0xC9)) ∧
    (s.buildOperands.pktId = 0xFFFF → checksumBytes s t = (0x67, 0xCB)))

/-- R143: PARSE of the frame a BUILD made gives back its endpoints and its payload, byte for byte. -/
def Obligations.BuildThenParseRoundTrip : Prop :=
  ∀ s t u : State, exec .build s = .next t → t.status.err = .ok →
    u.buf = t.buf → u.addrBits = t.addrBits →
    u.parseOperands.base = s.buildOperands.base → u.parseOperands.len = t.txLen →
    ∃ v, exec .parse u = .next v ∧ v.status.err = .ok ∧ v.status.rxValid = true ∧
      v.parseRes.srcAddr = s.buildOperands.srcAddr ∧ v.parseRes.srcPort = s.buildOperands.srcPort ∧
      v.parseRes.dstAddr = s.buildOperands.dstAddr ∧ v.parseRes.dstPort = s.buildOperands.dstPort ∧
      v.parseRes.plLen = s.buildOperands.plLen ∧
      ∀ k, k < s.buildOperands.plLen.toNat →
        v.buf.read (v.parseRes.plBase.toNat + k) = s.buf.read (s.buildOperands.plBase.toNat + k)

/-! ### Whole-machine rules of the engine -/

/-- R72: the engine changes a buffer byte only at the completion of a BUILD with status OK, and then only a byte of the
frame. -/
def Obligations.EngineWritesBufferOnlyInBuild : Prop :=
  ∀ (s t : State) (w : Word), s.turn = .engine w → step s = .next t →
    ∀ a, t.buf.read a ≠ s.buf.read a →
      decode w = .ok .build ∧ t.status.err = .ok ∧
      s.buildOperands.base.toNat ≤ a ∧ a < s.buildOperands.base.toNat + 28 + s.buildOperands.plLen.toNat

/-- R55, R115, R232: a command's outcome depends on nothing but its own operands and the bytes of the spans it reads: a
CSUM on no operand of PARSE or BUILD, and so for each of the three. -/
def Obligations.CommandsReadOnlyTheirSpans : Prop :=
  ∀ (i : Instr) (s s' : State), s.addrBits = s'.addrBits →
    (i = .csum → s.csumOperands = s'.csumOperands) → (i = .parse → s.parseOperands = s'.parseOperands) →
    (i = .build → s.buildOperands = s'.buildOperands) →
    (∀ p ∈ s.readSpans i, ∀ a, inSpan p.1 p.2 a = true → s.buf.read a = s'.buf.read a) →
    ∃ t t', exec i s = .next t ∧ exec i s' = .next t' ∧ t.status.err = t'.status.err ∧
      (i = .csum → t.csumRes = t'.csumRes) ∧
      (i = .parse → t.parseRes = t'.parseRes ∧ t.status.rxValid = t'.status.rxValid) ∧
      (i = .build → t.txLen = t'.txLen ∧ (t.status.err = .ok → t.buildOps.pktId = t'.buildOps.pktId) ∧
        ∀ k, k < t.txLen.toNat →
          t.buf.read (s.buildOperands.base.toNat + k) = t'.buf.read (s.buildOperands.base.toNat + k))

/-! ### Registers and the two apertures -/

/-- R20: the register at each offset, its access code, and the value it reads. -/
def Obligations.RegisterMapReads : Prop :=
  (∀ r : Reg, Reg.atOffset r.offset = some r) ∧
  (∀ s : State,
    s.readOffset 0x00 = BitVec.ofNat 32 s.addrBits.val ∧ s.readOffset 0x04 = s.ctrl.toWord ∧
    (s.readOffset 0x04).getLsbD 0 = s.ctrl.ie ∧ (s.readOffset 0x04).getLsbD 1 = s.ctrl.trace ∧
    (s.readOffset 0x04).extractLsb' 2 30 = 0 ∧
    s.readOffset 0x08 = s.statusWord ∧ s.readOffset 0x0C = 0 ∧
    s.readOffset 0x10 = s.csumOps.base ∧ s.readOffset 0x14 = s.csumOps.len ∧
    s.readOffset 0x18 = zext32 s.csumRes.result ∧ s.readOffset 0x1C = zext32 s.csumRes.acc ∧
    s.readOffset 0x20 = s.parseOps.base ∧ s.readOffset 0x24 = s.parseOps.len ∧
    s.readOffset 0x28 = s.parseRes.srcAddr ∧ s.readOffset 0x2C = zext32 s.parseRes.srcPort ∧
    s.readOffset 0x30 = s.parseRes.dstAddr ∧ s.readOffset 0x34 = zext32 s.parseRes.dstPort ∧
    s.readOffset 0x38 = s.parseRes.plBase ∧ s.readOffset 0x3C = s.parseRes.plLen ∧
    s.readOffset 0x40 = s.buildOps.base ∧ s.readOffset 0x44 = s.buildOps.cap ∧
    s.readOffset 0x48 = s.buildOps.plBase ∧ s.readOffset 0x4C = s.buildOps.plLen ∧
    s.readOffset 0x50 = s.buildOps.srcAddr ∧ s.readOffset 0x54 = zext32 s.buildOps.srcPort ∧
    s.readOffset 0x58 = s.buildOps.dstAddr ∧ s.readOffset 0x5C = zext32 s.buildOps.dstPort ∧
    (s.readOffset 0x60).extractLsb' 0 2 = s.buildOps.srcAf ∧ (s.readOffset 0x60).extractLsb' 8 2 = s.buildOps.dstAf ∧
    s.readOffset 0x64 = zext32 s.buildOps.pktId ∧ s.readOffset 0x68 = s.txLen) ∧
  (∀ r : Reg, r.access = .ro ↔ r ∈ [Reg.caps, .csResult, .csAcc, .rxSrcAddr, .rxSrcPort, .rxDstAddr, .rxDstPort,
    .rxPlBase, .rxPlLen, .txLen]) ∧
  (∀ r : Reg, (r.access = .rw ↔ r = .ctrl) ∧ (r.access = .w1c ↔ r = .status) ∧ (r.access = .wo ↔ r = .cmd))

/-- R49: at every unmapped offset, 0x6C to 0xFC, a read returns 0 and a write has no effect. -/
def Obligations.UnmappedOffsetsAreInert : Prop :=
  ∀ (s : State) (off : BitVec 8) (v : Word), 0x6C ≤ off.toNat → off.toNat ≤ 0xFC → off.toNat % 4 = 0 →
    s.readOffset off = 0x00000000 ∧ s.writeOffset off v = s

/-- R23: the fields of STATUS as it reads. -/
def Obligations.StatusWordFields : Prop :=
  ∀ s : State,
    s.statusWord.getLsbD 0 = s.isBusy ∧ s.statusWord.getLsbD 1 = s.status.done ∧
    s.statusWord.getLsbD 2 = s.status.ovr ∧ s.statusWord.getLsbD 3 = s.status.rxValid ∧
    s.statusWord.extractLsb' 4 4 = 0 ∧ s.statusWord.extractLsb' 8 4 = s.status.err.code ∧
    s.statusWord.extractLsb' 12 4 = s.status.lastOp ∧ s.statusWord.extractLsb' 16 16 = 0 ∧
    (s.isBusy = true ↔ ∃ l, s.phase = .busy l)

/-- R50: which bits are reserved (R21 to R48), that a reserved bit reads 0 and a value written to it is discarded, and
that in CMD it makes the word invalid. -/
def Obligations.ReservedBitsReadZero : Prop :=
  (Reg.caps.fieldMask = 0x000000FF ∧ Reg.ctrl.fieldMask = 0x00000003 ∧ Reg.status.fieldMask = 0x0000FF0F ∧
    Reg.txAf.fieldMask = 0x00000303 ∧
    (∀ r ∈ [Reg.csResult, .csAcc, .rxSrcPort, .rxDstPort, .txSrcPort, .txDstPort, .pktId], r.fieldMask = 0x0000FFFF) ∧
    (∀ r ∈ [Reg.csBase, .csLen, .rxBase, .rxLen, .rxSrcAddr, .rxDstAddr, .rxPlBase, .rxPlLen, .txBase, .txCap, .txPlBase,
      .txPlLen, .txSrcAddr, .txDstAddr, .txLen], r.fieldMask = 0xFFFFFFFF)) ∧
  (∀ (s : State) (r : Reg), s.readReg r &&& ~~~r.fieldMask = 0) ∧
  (∀ (s : State) (v : Word) (r : Reg), r ≠ .cmd → s.writeReg v r = s.writeReg (v &&& r.fieldMask) r) ∧
  (∀ w : Word, w.extractLsb' 4 28 ≠ 0 → ∀ i, decode w ≠ .ok i)

/-- R21: CAPS reads BUF_ADDR_BITS, is fixed, and a write of it has no effect. -/
def Obligations.CapsIsFixed : Prop :=
  (∀ s : State, (s.readOffset 0x00).extractLsb' 0 8 = BitVec.ofNat 8 s.addrBits.val ∧
    (s.readOffset 0x00).extractLsb' 8 24 = 0) ∧
  (∀ s t : State, step s = .next t → t.readOffset 0x00 = s.readOffset 0x00) ∧
  (∀ (s : State) (v : Word), s.writeOffset 0x00 v = s)

/-- R24: a write of STATUS, in any phase. -/
def Obligations.StatusWriteOneToClear : Prop :=
  ∀ (s : State) (w : Word),
    s.writeOffset 0x08 w = { s with
      status := { s.status with
        done := if w.getLsbD 1 = true then false else s.status.done
        ovr := if w.getLsbD 2 = true then false else s.status.ovr } }

/-- R62: a legal REG read returns the register's current value, 0 for CMD and where no register is, and has no side
effect on the block. -/
def Obligations.LegalRegReadReturnsRegister : Prop :=
  ∀ (s : State) (off : BitVec 8), s.Accesses (.regRead .w32 off) → off.toNat % 4 = 0 →
    ∃ v : Word,
      step s = .next { s with
        pending := s.pending.tail, left := s.left - 1, responses := .data v :: s.responses } ∧
      (∀ r : Reg, off = r.offset → v = s.readReg r) ∧
      (off = 0x0C → v = 0x00000000) ∧
      ((∀ r : Reg, off ≠ r.offset) → v = 0x00000000)

/-- R63: what a legal REG write does, by the register's access code and the engine phase. `u` is the state in which the
write is performed: `s` with the event taken off the list and counted. -/
def Obligations.LegalRegWriteByAccess : Prop :=
  ∀ (s : State) (off : BitVec 8) (v : Word), s.Accesses (.regWrite .w32 off v) → off.toNat % 4 = 0 →
    let u : State := { s with pending := s.pending.tail, left := s.left - 1, responses := .written :: s.responses }
    ∃ t, step s = .next t ∧
      ((∀ r : Reg, off ≠ r.offset) → t = u) ∧
      (off = 0x04 → t = { u with ctrl := { ie := v.getLsbD 0, trace := v.getLsbD 1 } }) ∧
      (off = 0x08 → t = { u with
        status := { u.status with
          done := if v.getLsbD 1 = true then false else u.status.done
          ovr := if v.getLsbD 2 = true then false else u.status.ovr } }) ∧
      (∀ r : Reg, off = r.offset → r.access = .ro → t = u) ∧
      (∀ r : Reg, off = r.offset → r.access = .wo ∨ r.access = .rwGated → s.isBusy = true →
        t = { u with status := { u.status with ovr := true } }) ∧
      (off = 0x0C → s.isBusy = false →
        ∃ n k : Nat, t = { u with
          status := { u.status with done := false }
          phase := .busy { word := v, ops :=
            if v = 0x00000001 then .csum s.csumOps else if v = 0x00000002 then .parse s.parseOps
            else if v = 0x00000003 then .build s.buildOps else .none }
          left := n
          delays := s.delays.tail
          freeCount := k }) ∧
      (∀ r : Reg, off = r.offset → r.access = .rwGated → s.isBusy = false →
        (∀ r' : Reg, t.readReg r' = if r' = r then v &&& r.fieldMask else u.readReg r') ∧
        t = { u with csumOps := t.csumOps, parseOps := t.parseOps, buildOps := t.buildOps })

/-- R61, R64, R203: an access the block does not take gets an error response, a read with data 0, and changes no state of
the block; the host program stops (log entry 7). -/
def Obligations.BusErrorsChangeNothing : Prop :=
  (∀ (s : State) (w : Width) (off : BitVec 8), s.Accesses (.regRead w off) → (w ≠ .w32 ∨ off.toNat % 4 ≠ 0) →
    ∃ t, step s = .next t ∧ SameBlock s t ∧ t.irq = s.irq ∧ t.host = .faulted .busError ∧
      t.responses = .readError 0x00000000 :: s.responses) ∧
  (∀ (s : State) (w : Width) (off : BitVec 8) (v : Word), s.Accesses (.regWrite w off v) →
    (w ≠ .w32 ∨ off.toNat % 4 ≠ 0) →
    ∃ t, step s = .next t ∧ SameBlock s t ∧ t.irq = s.irq ∧ t.host = .faulted .busError ∧
      t.responses = .writeError :: s.responses) ∧
  (∀ (s : State) (w : Width) (a : Nat), s.Accesses (.bufRead w a) → a < s.bufSize → a % w.bytes ≠ 0 →
    ∃ t, step s = .next t ∧ SameBlock s t ∧ t.irq = s.irq ∧ t.host = .faulted .busError ∧
      t.responses = .readError 0x00000000 :: s.responses) ∧
  (∀ (s : State) (w : Width) (a : Nat) (v : Word), s.Accesses (.bufWrite w a v) → a < s.bufSize →
    a % w.bytes ≠ 0 →
    ∃ t, step s = .next t ∧ SameBlock s t ∧ t.irq = s.irq ∧ t.host = .faulted .busError ∧
      t.responses = .writeError :: s.responses)

/-- R64, R65: a legal BUF read returns BUF[a+k] in bits [8k+7:8k] of the bus data and changes nothing, where no byte of
it lies in a running BUILD's output span (R237). The lane of an 8-bit read and the zero bits above the access are the
model's choice, log entry 16. -/
def Obligations.BufReadLanes : Prop :=
  ∀ (s : State) (w : Width) (a : Nat), s.Accesses (.bufRead w a) → a < s.bufSize → a % w.bytes = 0 →
    (∀ k, k < w.bytes → s.outputByte (a + k) = false) →
    ∃ v : Word,
      step s = .next { s with
        pending := s.pending.tail, left := s.left - 1, responses := .data v :: s.responses } ∧
      (∀ k, k < w.bytes → v.extractLsb' (8 * k) 8 = s.buf.read (a + k)) ∧ v.toNat < 2 ^ (8 * w.bytes)

/-- R64, R65: a legal BUF write stores bits [8k+7:8k] of the bus data at BUF[a+k] and changes nothing else, where it is no
hazard (R236). The lane of an 8-bit write is the model's choice, log entry 16. -/
def Obligations.BufWriteLanes : Prop :=
  ∀ (s : State) (w : Width) (a : Nat) (v : Word), s.Accesses (.bufWrite w a v) → a < s.bufSize →
    a % w.bytes = 0 → (∀ k, k < w.bytes → s.hazardByte (a + k) = false) →
    ∃ m : Memory,
      step s = .next { s with
        buf := m, pending := s.pending.tail, left := s.left - 1, responses := .written :: s.responses } ∧
      (∀ k, k < w.bytes → m.read (a + k) = v.extractLsb' (8 * k) 8) ∧
      (∀ b, inSpan a w.bytes b = false → m.read b = s.buf.read b)

/-- R237: while a BUILD is Busy a host read returns, for a byte of its output span, an unspecified value (a free value,
log entry 5), and for any other byte the byte as it stands; it changes no state of the block. The lane of an 8-bit read is
the model's choice, log entry 16. -/
def Obligations.BusyReadOfOutputSpanIsFree : Prop :=
  ∀ (s : State) (w : Width) (a : Nat) (word : Word) (o : BuildOperands), s.Accesses (.bufRead w a) →
    a < s.bufSize → a % w.bytes = 0 → s.phase = .busy { word := word, ops := .build o } →
    ∃ (t : State) (v : Word), step s = .next t ∧ SameBlock s t ∧ t.responses = .data v :: s.responses ∧
      (∀ k, k < w.bytes → v.extractLsb' (8 * k) 8 =
        if o.base.toNat ≤ a + k ∧ a + k < o.base.toNat + o.cap.toNat then Config.freeByte (s.freeCount + k)
        else s.buf.read (a + k)) ∧
      ((∃ k, k < w.bytes ∧ o.base.toNat ≤ a + k ∧ a + k < o.base.toNat + o.cap.toNat) →
        t.freeCount = s.freeCount + w.bytes)

/-- R236: a host write, while a command is Busy, to a byte the command reads or a BUILD may write is a hazard and faults;
a host write outside those spans takes effect (the lane of an 8-bit write is the model's choice, log entry 16). -/
def Obligations.HazardWriteFaults : Prop :=
  ∀ (s : State) (w : Width) (a : Nat) (v : Word) (l : Latch), s.Accesses (.bufWrite w a v) →
    a < s.bufSize → a % w.bytes = 0 → s.phase = .busy l →
    let touches := fun base len : Word => ∃ k, k < w.bytes ∧ base.toNat ≤ a + k ∧ a + k < base.toNat + len.toNat
    let hazard := (∃ o, l.ops = .csum o ∧ touches o.base o.len) ∨ (∃ o, l.ops = .parse o ∧ touches o.base o.len) ∨
      (∃ o, l.ops = .build o ∧ (touches o.plBase o.plLen ∨ touches o.base o.cap))
    (hazard → step s = .fault .hazardWrite) ∧
    (¬ hazard → ∃ t, step s = .next t ∧ t.phase = s.phase ∧
      ∀ k, k < w.bytes → t.buf.read (a + k) = v.extractLsb' (8 * k) 8)

/-! ### Host and engine -/

/-- R71, R75: no event of the outside world but reset, coming while a command is Busy, is seen by the command: its
latched copy stays, and it would complete with the same results. -/
def Obligations.HostCannotChangeRunningCommand : Prop :=
  ∀ (s t : State) (e : HostEvent) (l : Latch) (i : Instr), s.Inv → s.phase = .busy l → decode l.word = .ok i →
    s.turn = .host e → e ≠ .resetAssert → step s = .next t →
    t.phase = s.phase ∧
    ∃ u v, exec i s = .next u ∧ exec i t = .next v ∧ u.status.err = v.status.err ∧
      u.csumRes = v.csumRes ∧ u.parseRes = v.parseRes ∧ u.status.rxValid = v.status.rxValid ∧ u.txLen = v.txLen ∧
      u.buildOps = v.buildOps ∧
      (i = .build → ∀ k, k < u.txLen.toNat →
        u.buf.read (s.buildOperands.base.toNat + k) = v.buf.read (s.buildOperands.base.toNat + k))

/-- R238: while a command is Busy every result register, PKT_ID, ERR, LAST_OP and RX_VALID keep their values until the
completion step (or a reset). -/
def Obligations.ResultsHoldUntilCompletion : Prop :=
  ∀ (s t : State) (e : HostEvent), s.isBusy = true → s.turn = .host e → e ≠ .resetAssert → step s = .next t →
    t.isBusy = true ∧ t.csumRes = s.csumRes ∧ t.parseRes = s.parseRes ∧ t.txLen = s.txLen ∧
    t.buildOps.pktId = s.buildOps.pktId ∧ t.status.err = s.status.err ∧ t.status.lastOp = s.status.lastOp ∧
    t.status.rxValid = s.status.rxValid

/-- R47: the packet identifier changes only by a host write while Idle, by a BUILD that completes with OK, or by reset. -/
def Obligations.PktIdChangesOnlyByHostOrBuild : Prop :=
  ∀ s t : State, step s = .next t → t.buildOps.pktId ≠ s.buildOps.pktId →
    (∃ w, s.turn = .engine w ∧ decode w = .ok .build ∧ t.status.err = .ok ∧
      t.buildOps.pktId = s.buildOperands.pktId + 1) ∨
    (∃ v, s.turn = .host (.regWrite .w32 0x64 v) ∧ s.isBusy = false ∧ t.buildOps.pktId = v.extractLsb' 0 16) ∨
    (s.turn = .host .resetAssert ∧ t.buildOps.pktId = 0)

/-- R23: ERR, LAST_OP and RX_VALID change only at a command's completion (or by reset), and RX_VALID only at the
completion of a PARSE. -/
def Obligations.StatusReportChangesOnlyAtCompletion : Prop :=
  ∀ s t : State, step s = .next t → s.turn ≠ .host .resetAssert →
    ((t.status.err ≠ s.status.err ∨ t.status.lastOp ≠ s.status.lastOp) → ∃ w, s.turn = .engine w) ∧
    (t.status.rxValid ≠ s.status.rxValid → ∃ w, s.turn = .engine w ∧ decode w = .ok .parse)

/-- R204, R205: DONE rises only at a completion and falls only by an accepted CMD write, a 1 written to STATUS[1], or
reset; OVR rises only by a busy-gated write while Busy and falls only by a 1 written to STATUS[2], or reset; irq is
CTRL.IE AND STATUS.DONE. -/
def Obligations.DoneAndOverrunLifecycle : Prop :=
  (∀ s t : State, step s = .next t →
    (s.status.done = false → t.status.done = true → ∃ w, s.turn = .engine w) ∧
    (s.status.done = true → t.status.done = false →
      (∃ v, s.turn = .host (.regWrite .w32 0x0C v) ∧ s.isBusy = false) ∨
      (∃ v, s.turn = .host (.regWrite .w32 0x08 v) ∧ v.getLsbD 1 = true) ∨ s.turn = .host .resetAssert) ∧
    (s.status.ovr = false → t.status.ovr = true →
      ∃ (r : Reg) (v : Word), s.turn = .host (.regWrite .w32 r.offset v) ∧ s.isBusy = true ∧
        (r.access = .wo ∨ r.access = .rwGated)) ∧
    (s.status.ovr = true → t.status.ovr = false →
      (∃ v, s.turn = .host (.regWrite .w32 0x08 v) ∧ v.getLsbD 2 = true) ∨ s.turn = .host .resetAssert)) ∧
  (∀ s : State, s.irq = true ↔ s.ctrl.ie = true ∧ s.status.done = true)

/-- R230: reset gives every register its reset value, leaves CAPS, aborts what runs and lowers irq; an access while reset
is asserted is not performed; release changes no register. (That such an access stops the host program is log entry 7.) -/
def Obligations.ResetClearsRegisters : Prop :=
  (∀ s : State, s.turn = .host .resetAssert →
    ∃ t, step s = .next t ∧ (∀ r : Reg, r ≠ .caps → t.readReg r = 0) ∧ t.readReg .caps = s.readReg .caps ∧
      t.phase = .idle ∧ t.irq = false ∧ t.inReset = true) ∧
  (∀ (s : State) (e : HostEvent), s.turn = .host e → s.inReset = true → e ≠ .resetAssert → e ≠ .resetRelease →
    ∃ t, step s = .next t ∧ SameBlock s t ∧ t.responses = s.responses) ∧
  (∀ s : State, s.turn = .host .resetRelease →
    ∃ t, step s = .next t ∧ SameRegisters s t ∧ t.buf = s.buf ∧ t.phase = s.phase ∧ t.inReset = false)

/-- R231, R232: reset keeps every buffer byte, but for the frame span of a BUILD it aborts. -/
def Obligations.ResetKeepsBuffer : Prop :=
  ∀ s t : State, s.turn = .host .resetAssert → step s = .next t →
    (∀ a, (∀ (w : Word) (o : BuildOperands), s.phase = .busy { word := w, ops := .build o } →
        ¬ (o.base.toNat + 28 + o.plLen.toNat ≤ s.bufSize ∧
          o.base.toNat ≤ a ∧ a < o.base.toNat + 28 + o.plLen.toNat)) →
      t.buf.read a = s.buf.read a) ∧
    t.buildOps.pktId = 0

/-- R54, R216: the trace flag has no effect on anything but the flag itself and a read of CTRL. -/
def Obligations.TraceHasNoEffect : Prop :=
  ∀ (s t : State) (b : Bool), step s = .next t → (∀ w, s.turn ≠ .host (.regRead w 0x04)) →
    ∃ t', step (s.withTrace b) = .next t' ∧ t'.withTrace false = t.withTrace false

/-- R240: a command that is running completes after finitely many steps, unless reset or a host error intervenes. The
number of host accesses the block lets come first is open (log entry 6). -/
def Obligations.EveryRunningCommandCompletes : Prop :=
  ∀ (s : State) (l : Latch), s.phase = .busy l → HostEvent.resetAssert ∉ s.pending →
    ∃ k, k ≤ s.pending.length + s.left + 1 ∧
      ((∃ t, Sys2Proof.core.run k s = .next t ∧ t.phase = .idle ∧ t.status.done = true ∧
          t.status.lastOp = l.word.extractLsb' 0 4) ∨
        ∃ r, Sys2Proof.core.run k s = .fault r)

/-- R200: no completion stops the block, and no step refuses. The machine stops only on a BUF write of the host that is a
hazard (R236), or on a BUF access outside the aperture: that this one stops the machine is the model's own choice, log
entry 10 (R60 and R64 say only that no such address exists). -/
def Obligations.StopsOnlyOnHostErrors : Prop :=
  (∀ (s : State) (f : Fault), step s = .fault f →
    (f = .hazardWrite ∧ s.isBusy = true ∧ ∃ w a v, s.turn = .host (.bufWrite w a v) ∧ a < s.bufSize) ∨
    (f = .noSuchAddress ∧ ((∃ w a, s.turn = .host (.bufRead w a) ∧ s.bufSize ≤ a) ∨
      ∃ w a v, s.turn = .host (.bufWrite w a v) ∧ s.bufSize ≤ a))) ∧
  (∀ (s : State) (r : Refusal), step s ≠ .refused r)

/-! ### The invariant -/

/-- The invariant holds at reset and at power-on in every configuration with any initial buffer (R3, R230, R232). -/
def Obligations.InvariantAtPowerOn : Prop :=
  State.reset.Inv ∧
  ∀ (bits : AddrBits) (m : Memory) (program : List HostEvent) (delays : List Nat), m.wf = true →
    (∀ c ∈ m, c.1 < 2 ^ bits.val) → (State.powerOn bits m program delays).Inv

/-- Every step keeps the invariant (R29, R51, R53, R70, R141, R171, R202, R211, R230). -/
def Obligations.StepKeepsInvariant : Prop :=
  ∀ s t : State, s.Inv → step s = .next t → t.Inv

/-- R51: in every state a run from power-on reaches, the latched copy equals the registers: a command that reads its
latched operands reads what the registers hold. -/
def Obligations.LatchedCopyEqualsRegisters : Prop :=
  ∀ (bits : AddrBits) (m : Memory) (program : List HostEvent) (delays : List Nat) (s : State), m.wf = true →
    (∀ c ∈ m, c.1 < 2 ^ bits.val) → Reaches (State.powerOn bits m program delays) s →
    s.csumOperands = s.csumOps ∧ s.parseOperands = s.parseOps ∧ s.buildOperands = s.buildOps ∧
    (∀ l, s.phase = .busy l → s.status.done = false ∧ l.ops = s.latchedOperands l.word)
end

