-- ==== Sys2Proof/Laws/Checksum.lean ====
section
/-! SUPPORT. The checksum function of R110: the range of its accumulator and its value modulo 65535. -/

namespace Sys2Proof.Machine

theorem toNat_be16 (b0 b1 : Byte) : (be16 b0 b1).toNat = b0.toNat * 256 + b1.toNat := by
  have h0 := b0.isLt; have h1 := b1.isLt
  simp only [be16, BitVec.toNat_ofNat]; omega

theorem toNat_be32 (b0 b1 b2 b3 : Byte) :
    (be32 b0 b1 b2 b3).toNat = b0.toNat * 2 ^ 24 + b1.toNat * 2 ^ 16 + b2.toNat * 2 ^ 8 + b3.toNat := by
  have h0 := b0.isLt; have h1 := b1.isLt; have h2 := b2.isLt; have h3 := b3.isLt
  simp only [be32, BitVec.toNat_ofNat]; omega

/-- One fold keeps an accumulator in 1..0xFFFF there and its value modulo 65535. -/
theorem foldCarry_add {acc w : Nat} (h1 : 1 ≤ acc) (h2 : acc ≤ 65535) (hw : w ≤ 65535) :
    1 ≤ foldCarry (acc + w) ∧ foldCarry (acc + w) ≤ 65535 ∧
      foldCarry (acc + w) % 65535 = (acc + w) % 65535 := by
  simp only [foldCarry]; omega

theorem csumLoop_spec (b : List Byte) {acc : Nat} (h1 : 1 ≤ acc) (h2 : acc ≤ 65535) :
    1 ≤ csumLoop acc b ∧ csumLoop acc b ≤ 65535 ∧
      csumLoop acc b % 65535 = (acc + wordSum b) % 65535 := by
  induction b using wordSum.induct generalizing acc with
  | case1 => simp [csumLoop, wordSum, h1, h2]
  | case2 b0 =>
    have hw : (be16 b0 0).toNat = b0.toNat * 256 := by simp [toNat_be16]
    have hf := foldCarry_add h1 h2 (show b0.toNat * 256 ≤ 65535 by have := b0.isLt; omega)
    simp only [csumLoop, wordSum, hw]
    exact hf
  | case3 b0 b1 rest ih =>
    have hf := foldCarry_add h1 h2 (w := (be16 b0 b1).toNat) (by have := (be16 b0 b1).isLt; omega)
    have := ih hf.1 hf.2.1
    simp only [csumLoop, wordSum]
    refine ⟨this.1, this.2.1, ?_⟩
    rw [this.2.2, Nat.add_mod, hf.2.2, toNat_be16]
    omega

theorem toNat_inetCsum_sum (b : List Byte) : (inetCsum b).1.toNat = csumLoop csumSeed b := by
  have := csumLoop_spec b (acc := csumSeed) (by decide) (by decide)
  simp only [inetCsum, BitVec.toNat_ofNat]; omega

theorem toNat_inetCsum_csum (b : List Byte) : (inetCsum b).2.toNat = 65535 - (inetCsum b).1.toNat := by
  simp only [inetCsum, BitVec.toNat_not]

/-- S is the one number of 1..0xFFFF that is W modulo 65535 (R112). -/
theorem inetCsum_sum_spec (b : List Byte) :
    1 ≤ (inetCsum b).1.toNat ∧ (inetCsum b).1.toNat ≤ 65535 ∧ (inetCsum b).1.toNat % 65535 = wordSum b % 65535 := by
  have h := csumLoop_spec b (acc := csumSeed) (by decide) (by decide)
  rw [toNat_inetCsum_sum]
  refine ⟨h.1, h.2.1, ?_⟩
  rw [h.2.2]; simp only [csumSeed]; omega

theorem wordSum_append (xs ys : List Byte) (h : xs.length % 2 = 0) :
    wordSum (xs ++ ys) = wordSum xs + wordSum ys := by
  induction xs using wordSum.induct with
  | case1 => simp [wordSum]
  | case2 b => simp at h
  | case3 b0 b1 rest ih =>
    have := ih (by simp only [List.length_cons] at h; omega)
    simp only [List.cons_append, wordSum, this]; omega

/-- Putting a word into a word slot that holds 0 adds it to the word sum. -/
theorem wordSum_set_word (b : List Byte) (j : Nat) (hi lo : Byte) (heven : j % 2 = 0) (hj : j + 1 < b.length)
    (h0 : b[j] = 0) (h1 : b[j + 1] = 0) :
    wordSum ((b.set j hi).set (j + 1) lo) = wordSum b + (hi.toNat * 256 + lo.toNat) := by
  induction b using wordSum.induct generalizing j with
  | case1 => simp at hj
  | case2 b => simp at hj
  | case3 b0 b1 rest ih =>
    rcases j with _ | _ | j
    · simp only [List.getElem_cons_zero, Nat.zero_add, List.getElem_cons_succ] at h0 h1
      simp [wordSum, h0, h1]; omega
    · simp at heven
    · have := ih j (by omega) (by simp at hj; omega) (by simpa using h0) (by simpa using h1)
      simp only [List.set_cons_succ, wordSum, this]; omega

end Sys2Proof.Machine
end

