-- ==== Sys2Proof/Laws/Memory.lean ====
section
/-! SUPPORT. The frame buffer: read after write, spans, and that every operation keeps the canonical form. -/

namespace Sys2Proof.Machine

theorem Memory.find_write (m : Memory) (a b : Nat) (v : Byte) :
    (m.write a v).find b = if b = a then some v else m.find b := by
  induction m with
  | nil => grind [Memory.write, Memory.find]
  | cons c rest ih => obtain ⟨k, w⟩ := c; grind [Memory.write, Memory.find]

theorem Memory.read_write (m : Memory) (a b : Nat) (v : Byte) :
    (m.write a v).read b = if b = a then v else m.read b := by
  by_cases h : b = a <;> simp [Memory.read, Memory.find_write, h]

@[simp] theorem Memory.read_write_same (m : Memory) (a : Nat) (v : Byte) : (m.write a v).read a = v := by
  simp [Memory.read_write]

theorem Memory.read_write_other (m : Memory) {a b : Nat} (v : Byte) (h : b ≠ a) :
    (m.write a v).read b = m.read b := by
  simp [Memory.read_write, h]

theorem Memory.read_writeSpan_outside (m : Memory) (bs : List Byte) {a b : Nat}
    (h : b < a ∨ a + bs.length ≤ b) : (m.writeSpan a bs).read b = m.read b := by
  induction bs generalizing a with
  | nil => rfl
  | cons x xs ih =>
    simp only [List.length_cons] at h
    rw [Memory.writeSpan, Memory.read_write_other _ _ (by omega), ih (by omega)]

theorem Memory.read_writeSpan_inside (m : Memory) (bs : List Byte) (a k : Nat) (h : k < bs.length) :
    (m.writeSpan a bs).read (a + k) = bs[k] := by
  induction bs generalizing a k with
  | nil => simp at h
  | cons x xs ih =>
    cases k with
    | zero => simp [Memory.writeSpan]
    | succ k =>
      rw [Memory.writeSpan, Memory.read_write_other _ _ (by omega), show a + (k + 1) = a + 1 + k by omega,
        ih (a + 1) k (by simpa using h)]
      rfl

/-- What a byte reads after a span was written, in one equation. -/
theorem Memory.read_writeSpan (m : Memory) (bs : List Byte) (a b : Nat) :
    (m.writeSpan a bs).read b = if a ≤ b then (bs[b - a]?).getD (m.read b) else m.read b := by
  by_cases hb : a ≤ b
  · by_cases hl : b - a < bs.length
    · have h := Memory.read_writeSpan_inside m bs a (b - a) hl
      rw [show a + (b - a) = b by omega] at h
      simp [hb, hl, h]
    · rw [Memory.read_writeSpan_outside m bs (by omega)]
      simp [hb, List.getElem?_eq_none (Nat.le_of_not_lt hl)]
  · rw [Memory.read_writeSpan_outside m bs (by omega)]
    simp [hb]

@[simp] theorem Memory.length_readSpan (m : Memory) (a n : Nat) : (m.readSpan a n).length = n := by
  induction n generalizing a with
  | zero => rfl
  | succ n ih => simp [Memory.readSpan, ih]

@[simp] theorem Memory.getElem_readSpan (m : Memory) (a n k : Nat) (h : k < (m.readSpan a n).length) :
    (m.readSpan a n)[k] = m.read (a + k) := by
  induction n generalizing a k with
  | zero => simp at h
  | succ n ih =>
    cases k with
    | zero => rfl
    | succ k =>
      have := ih (a + 1) k (by simpa using h)
      simp only [Memory.readSpan, List.getElem_cons_succ]
      rw [this]; congr 1; omega

/-- A span reads the same from two memories that agree on its bytes. -/
theorem Memory.readSpan_congr {m m' : Memory} {a n : Nat} (h : ∀ k < n, m.read (a + k) = m'.read (a + k)) :
    m.readSpan a n = m'.readSpan a n := by
  apply List.ext_getElem (by simp)
  intro k h1 h2
  simpa using h k (by simpa using h1)

theorem Memory.readSpan_writeSpan (m : Memory) (a : Nat) (bs : List Byte) :
    (m.writeSpan a bs).readSpan a bs.length = bs := by
  apply List.ext_getElem (by simp)
  intro k h1 h2
  simpa using Memory.read_writeSpan_inside m bs a k h2

theorem Memory.wf_cons (c : Host.Cell) (m : Memory) :
    Memory.wf (c :: m) = true ↔ (∀ d ∈ m.head?, c.1 < d.1) ∧ Memory.wf m = true := by
  cases m <;> simp [Memory.wf]

theorem Memory.head_write (m : Memory) (a : Nat) (v : Byte) :
    ∀ d ∈ (m.write a v).head?, d.1 = a ∨ ∃ e ∈ m.head?, d.1 = e.1 := by
  cases m with
  | nil => simp [Memory.write]
  | cons c rest => obtain ⟨k, w⟩ := c; simp only [Memory.write]; split <;> [skip; split] <;> simp

theorem Memory.wf_write (m : Memory) (a : Nat) (v : Byte) (h : m.wf = true) : (m.write a v).wf = true := by
  induction m with
  | nil => rfl
  | cons c rest ih =>
    obtain ⟨k, w⟩ := c
    have hc := (Memory.wf_cons _ _).1 h
    simp only [Memory.write]
    split
    · exact (Memory.wf_cons _ _).2 ⟨by simpa, h⟩
    split
    · rename_i hak; subst hak; exact (Memory.wf_cons _ _).2 ⟨hc.1, hc.2⟩
    · refine (Memory.wf_cons _ _).2 ⟨fun d hd => ?_, ih hc.2⟩
      rcases Memory.head_write rest a v d hd with h1 | ⟨e, he, h1⟩
      · have : k < a := by omega
        simpa [h1] using this
      · simpa [h1] using hc.1 e he

theorem Memory.wf_writeSpan (m : Memory) (a : Nat) (bs : List Byte) (h : m.wf = true) :
    (m.writeSpan a bs).wf = true := by
  induction bs generalizing a with
  | nil => exact h
  | cons b bs ih => exact Memory.wf_write _ _ _ (ih (a + 1))

theorem Memory.mem_write {m : Memory} {a : Nat} {v : Byte} {c : Host.Cell} (h : c ∈ m.write a v) :
    c.1 = a ∨ c ∈ m := by
  induction m with
  | nil => simp_all [Memory.write]
  | cons d rest ih =>
    obtain ⟨k, w⟩ := d
    simp only [Memory.write] at h
    split at h
    · rcases List.mem_cons.1 h with rfl | h
      · exact .inl rfl
      · exact .inr h
    split at h
    · rcases List.mem_cons.1 h with rfl | h
      · exact .inl rfl
      · exact .inr (List.mem_cons_of_mem _ h)
    · rcases List.mem_cons.1 h with rfl | h
      · exact .inr (by simp)
      · exact (ih h).imp id (List.mem_cons_of_mem _)

/-- Writing inside the buffer keeps every listed address inside it. -/
theorem Memory.bounded_writeSpan {m : Memory} {a n : Nat} {bs : List Byte} (hm : ∀ c ∈ m, c.1 < n)
    (h : a + bs.length ≤ n) : ∀ c ∈ m.writeSpan a bs, c.1 < n := by
  induction bs generalizing a with
  | nil => exact hm
  | cons b bs ih =>
    intro c hc
    rw [List.length_cons] at h
    rcases Memory.mem_write hc with h1 | h1
    · omega
    · exact ih (by omega) c h1

end Sys2Proof.Machine
end

