-- ==== Sys2Proof/Laws/State.lean ====
section
/-! SUPPORT. One lemma per field of State per named update, each true by rfl, so that no proof unfolds an update. -/

namespace Sys2Proof.Machine

variable (s : State)

@[simp] theorem State.complete_addrBits (op : BitVec 4) (c : StatusCode) : (s.complete op c).addrBits =
    s.addrBits := rfl
@[simp] theorem State.complete_ctrl (op : BitVec 4) (c : StatusCode) : (s.complete op c).ctrl = s.ctrl := rfl
@[simp] theorem State.complete_status (op : BitVec 4) (c : StatusCode) : (s.complete op c).status =
    { s.status with done := true, err := c, lastOp := op } := rfl
@[simp] theorem State.complete_csumOps (op : BitVec 4) (c : StatusCode) : (s.complete op c).csumOps = s.csumOps := rfl
@[simp] theorem State.complete_csumRes (op : BitVec 4) (c : StatusCode) : (s.complete op c).csumRes = s.csumRes := rfl
@[simp] theorem State.complete_parseOps (op : BitVec 4) (c : StatusCode) : (s.complete op c).parseOps =
    s.parseOps := rfl
@[simp] theorem State.complete_parseRes (op : BitVec 4) (c : StatusCode) : (s.complete op c).parseRes =
    s.parseRes := rfl
@[simp] theorem State.complete_buildOps (op : BitVec 4) (c : StatusCode) : (s.complete op c).buildOps =
    s.buildOps := rfl
@[simp] theorem State.complete_txLen (op : BitVec 4) (c : StatusCode) : (s.complete op c).txLen = s.txLen := rfl
@[simp] theorem State.complete_buf (op : BitVec 4) (c : StatusCode) : (s.complete op c).buf = s.buf := rfl
@[simp] theorem State.complete_phase (op : BitVec 4) (c : StatusCode) : (s.complete op c).phase = .idle := rfl
@[simp] theorem State.complete_inReset (op : BitVec 4) (c : StatusCode) : (s.complete op c).inReset = s.inReset := rfl
@[simp] theorem State.complete_left (op : BitVec 4) (c : StatusCode) : (s.complete op c).left = s.left := rfl
@[simp] theorem State.complete_delays (op : BitVec 4) (c : StatusCode) : (s.complete op c).delays = s.delays := rfl
@[simp] theorem State.complete_host (op : BitVec 4) (c : StatusCode) : (s.complete op c).host = s.host := rfl
@[simp] theorem State.complete_pending (op : BitVec 4) (c : StatusCode) : (s.complete op c).pending = s.pending := rfl
@[simp] theorem State.complete_responses (op : BitVec 4) (c : StatusCode) : (s.complete op c).responses =
    s.responses := rfl
@[simp] theorem State.complete_freeCount (op : BitVec 4) (c : StatusCode) : (s.complete op c).freeCount =
    s.freeCount := rfl

@[simp] theorem State.acknowledge_addrBits : (s.acknowledge).addrBits = s.addrBits := rfl
@[simp] theorem State.acknowledge_ctrl : (s.acknowledge).ctrl = s.ctrl := rfl
@[simp] theorem State.acknowledge_status : (s.acknowledge).status = { s.status with done := false } := rfl
@[simp] theorem State.acknowledge_csumOps : (s.acknowledge).csumOps = s.csumOps := rfl
@[simp] theorem State.acknowledge_csumRes : (s.acknowledge).csumRes = s.csumRes := rfl
@[simp] theorem State.acknowledge_parseOps : (s.acknowledge).parseOps = s.parseOps := rfl
@[simp] theorem State.acknowledge_parseRes : (s.acknowledge).parseRes = s.parseRes := rfl
@[simp] theorem State.acknowledge_buildOps : (s.acknowledge).buildOps = s.buildOps := rfl
@[simp] theorem State.acknowledge_txLen : (s.acknowledge).txLen = s.txLen := rfl
@[simp] theorem State.acknowledge_buf : (s.acknowledge).buf = s.buf := rfl
@[simp] theorem State.acknowledge_phase : (s.acknowledge).phase = s.phase := rfl
@[simp] theorem State.acknowledge_inReset : (s.acknowledge).inReset = s.inReset := rfl
@[simp] theorem State.acknowledge_left : (s.acknowledge).left = s.left := rfl
@[simp] theorem State.acknowledge_delays : (s.acknowledge).delays = s.delays := rfl
@[simp] theorem State.acknowledge_host : (s.acknowledge).host = s.host := rfl
@[simp] theorem State.acknowledge_pending : (s.acknowledge).pending = s.pending := rfl
@[simp] theorem State.acknowledge_responses : (s.acknowledge).responses = s.responses := rfl
@[simp] theorem State.acknowledge_freeCount : (s.acknowledge).freeCount = s.freeCount := rfl

@[simp] theorem State.overrun_addrBits : (s.overrun).addrBits = s.addrBits := rfl
@[simp] theorem State.overrun_ctrl : (s.overrun).ctrl = s.ctrl := rfl
@[simp] theorem State.overrun_status : (s.overrun).status = { s.status with ovr := true } := rfl
@[simp] theorem State.overrun_csumOps : (s.overrun).csumOps = s.csumOps := rfl
@[simp] theorem State.overrun_csumRes : (s.overrun).csumRes = s.csumRes := rfl
@[simp] theorem State.overrun_parseOps : (s.overrun).parseOps = s.parseOps := rfl
@[simp] theorem State.overrun_parseRes : (s.overrun).parseRes = s.parseRes := rfl
@[simp] theorem State.overrun_buildOps : (s.overrun).buildOps = s.buildOps := rfl
@[simp] theorem State.overrun_txLen : (s.overrun).txLen = s.txLen := rfl
@[simp] theorem State.overrun_buf : (s.overrun).buf = s.buf := rfl
@[simp] theorem State.overrun_phase : (s.overrun).phase = s.phase := rfl
@[simp] theorem State.overrun_inReset : (s.overrun).inReset = s.inReset := rfl
@[simp] theorem State.overrun_left : (s.overrun).left = s.left := rfl
@[simp] theorem State.overrun_delays : (s.overrun).delays = s.delays := rfl
@[simp] theorem State.overrun_host : (s.overrun).host = s.host := rfl
@[simp] theorem State.overrun_pending : (s.overrun).pending = s.pending := rfl
@[simp] theorem State.overrun_responses : (s.overrun).responses = s.responses := rfl
@[simp] theorem State.overrun_freeCount : (s.overrun).freeCount = s.freeCount := rfl

@[simp] theorem State.respond_addrBits (r : BusResponse) : (s.respond r).addrBits = s.addrBits := rfl
@[simp] theorem State.respond_ctrl (r : BusResponse) : (s.respond r).ctrl = s.ctrl := rfl
@[simp] theorem State.respond_status (r : BusResponse) : (s.respond r).status = s.status := rfl
@[simp] theorem State.respond_csumOps (r : BusResponse) : (s.respond r).csumOps = s.csumOps := rfl
@[simp] theorem State.respond_csumRes (r : BusResponse) : (s.respond r).csumRes = s.csumRes := rfl
@[simp] theorem State.respond_parseOps (r : BusResponse) : (s.respond r).parseOps = s.parseOps := rfl
@[simp] theorem State.respond_parseRes (r : BusResponse) : (s.respond r).parseRes = s.parseRes := rfl
@[simp] theorem State.respond_buildOps (r : BusResponse) : (s.respond r).buildOps = s.buildOps := rfl
@[simp] theorem State.respond_txLen (r : BusResponse) : (s.respond r).txLen = s.txLen := rfl
@[simp] theorem State.respond_buf (r : BusResponse) : (s.respond r).buf = s.buf := rfl
@[simp] theorem State.respond_phase (r : BusResponse) : (s.respond r).phase = s.phase := rfl
@[simp] theorem State.respond_inReset (r : BusResponse) : (s.respond r).inReset = s.inReset := rfl
@[simp] theorem State.respond_left (r : BusResponse) : (s.respond r).left = s.left := rfl
@[simp] theorem State.respond_delays (r : BusResponse) : (s.respond r).delays = s.delays := rfl
@[simp] theorem State.respond_host (r : BusResponse) : (s.respond r).host = s.host := rfl
@[simp] theorem State.respond_pending (r : BusResponse) : (s.respond r).pending = s.pending := rfl
@[simp] theorem State.respond_responses (r : BusResponse) : (s.respond r).responses = r :: s.responses := rfl
@[simp] theorem State.respond_freeCount (r : BusResponse) : (s.respond r).freeCount = s.freeCount := rfl

@[simp] theorem State.hostFaults_addrBits (c : HostFault) : (s.hostFaults c).addrBits = s.addrBits := rfl
@[simp] theorem State.hostFaults_ctrl (c : HostFault) : (s.hostFaults c).ctrl = s.ctrl := rfl
@[simp] theorem State.hostFaults_status (c : HostFault) : (s.hostFaults c).status = s.status := rfl
@[simp] theorem State.hostFaults_csumOps (c : HostFault) : (s.hostFaults c).csumOps = s.csumOps := rfl
@[simp] theorem State.hostFaults_csumRes (c : HostFault) : (s.hostFaults c).csumRes = s.csumRes := rfl
@[simp] theorem State.hostFaults_parseOps (c : HostFault) : (s.hostFaults c).parseOps = s.parseOps := rfl
@[simp] theorem State.hostFaults_parseRes (c : HostFault) : (s.hostFaults c).parseRes = s.parseRes := rfl
@[simp] theorem State.hostFaults_buildOps (c : HostFault) : (s.hostFaults c).buildOps = s.buildOps := rfl
@[simp] theorem State.hostFaults_txLen (c : HostFault) : (s.hostFaults c).txLen = s.txLen := rfl
@[simp] theorem State.hostFaults_buf (c : HostFault) : (s.hostFaults c).buf = s.buf := rfl
@[simp] theorem State.hostFaults_phase (c : HostFault) : (s.hostFaults c).phase = s.phase := rfl
@[simp] theorem State.hostFaults_inReset (c : HostFault) : (s.hostFaults c).inReset = s.inReset := rfl
@[simp] theorem State.hostFaults_left (c : HostFault) : (s.hostFaults c).left = s.left := rfl
@[simp] theorem State.hostFaults_delays (c : HostFault) : (s.hostFaults c).delays = s.delays := rfl
@[simp] theorem State.hostFaults_host (c : HostFault) : (s.hostFaults c).host = .faulted c := rfl
@[simp] theorem State.hostFaults_pending (c : HostFault) : (s.hostFaults c).pending = s.pending := rfl
@[simp] theorem State.hostFaults_responses (c : HostFault) : (s.hostFaults c).responses = s.responses := rfl
@[simp] theorem State.hostFaults_freeCount (c : HostFault) : (s.hostFaults c).freeCount = s.freeCount := rfl

@[simp] theorem State.pop_addrBits : (s.pop).addrBits = s.addrBits := rfl
@[simp] theorem State.pop_ctrl : (s.pop).ctrl = s.ctrl := rfl
@[simp] theorem State.pop_status : (s.pop).status = s.status := rfl
@[simp] theorem State.pop_csumOps : (s.pop).csumOps = s.csumOps := rfl
@[simp] theorem State.pop_csumRes : (s.pop).csumRes = s.csumRes := rfl
@[simp] theorem State.pop_parseOps : (s.pop).parseOps = s.parseOps := rfl
@[simp] theorem State.pop_parseRes : (s.pop).parseRes = s.parseRes := rfl
@[simp] theorem State.pop_buildOps : (s.pop).buildOps = s.buildOps := rfl
@[simp] theorem State.pop_txLen : (s.pop).txLen = s.txLen := rfl
@[simp] theorem State.pop_buf : (s.pop).buf = s.buf := rfl
@[simp] theorem State.pop_phase : (s.pop).phase = s.phase := rfl
@[simp] theorem State.pop_inReset : (s.pop).inReset = s.inReset := rfl
@[simp] theorem State.pop_left : (s.pop).left = s.left := rfl
@[simp] theorem State.pop_delays : (s.pop).delays = s.delays := rfl
@[simp] theorem State.pop_host : (s.pop).host = s.host := rfl
@[simp] theorem State.pop_pending : (s.pop).pending = s.pending.tail := rfl
@[simp] theorem State.pop_responses : (s.pop).responses = s.responses := rfl
@[simp] theorem State.pop_freeCount : (s.pop).freeCount = s.freeCount := rfl

@[simp] theorem State.tick_addrBits : (s.tick).addrBits = s.addrBits := rfl
@[simp] theorem State.tick_ctrl : (s.tick).ctrl = s.ctrl := rfl
@[simp] theorem State.tick_status : (s.tick).status = s.status := rfl
@[simp] theorem State.tick_csumOps : (s.tick).csumOps = s.csumOps := rfl
@[simp] theorem State.tick_csumRes : (s.tick).csumRes = s.csumRes := rfl
@[simp] theorem State.tick_parseOps : (s.tick).parseOps = s.parseOps := rfl
@[simp] theorem State.tick_parseRes : (s.tick).parseRes = s.parseRes := rfl
@[simp] theorem State.tick_buildOps : (s.tick).buildOps = s.buildOps := rfl
@[simp] theorem State.tick_txLen : (s.tick).txLen = s.txLen := rfl
@[simp] theorem State.tick_buf : (s.tick).buf = s.buf := rfl
@[simp] theorem State.tick_phase : (s.tick).phase = s.phase := rfl
@[simp] theorem State.tick_inReset : (s.tick).inReset = s.inReset := rfl
@[simp] theorem State.tick_left : (s.tick).left = s.left - 1 := rfl
@[simp] theorem State.tick_delays : (s.tick).delays = s.delays := rfl
@[simp] theorem State.tick_host : (s.tick).host = s.host := rfl
@[simp] theorem State.tick_pending : (s.tick).pending = s.pending := rfl
@[simp] theorem State.tick_responses : (s.tick).responses = s.responses := rfl
@[simp] theorem State.tick_freeCount : (s.tick).freeCount = s.freeCount := rfl

@[simp] theorem State.useFree_addrBits (n : Nat) : (s.useFree n).addrBits = s.addrBits := rfl
@[simp] theorem State.useFree_ctrl (n : Nat) : (s.useFree n).ctrl = s.ctrl := rfl
@[simp] theorem State.useFree_status (n : Nat) : (s.useFree n).status = s.status := rfl
@[simp] theorem State.useFree_csumOps (n : Nat) : (s.useFree n).csumOps = s.csumOps := rfl
@[simp] theorem State.useFree_csumRes (n : Nat) : (s.useFree n).csumRes = s.csumRes := rfl
@[simp] theorem State.useFree_parseOps (n : Nat) : (s.useFree n).parseOps = s.parseOps := rfl
@[simp] theorem State.useFree_parseRes (n : Nat) : (s.useFree n).parseRes = s.parseRes := rfl
@[simp] theorem State.useFree_buildOps (n : Nat) : (s.useFree n).buildOps = s.buildOps := rfl
@[simp] theorem State.useFree_txLen (n : Nat) : (s.useFree n).txLen = s.txLen := rfl
@[simp] theorem State.useFree_buf (n : Nat) : (s.useFree n).buf = s.buf := rfl
@[simp] theorem State.useFree_phase (n : Nat) : (s.useFree n).phase = s.phase := rfl
@[simp] theorem State.useFree_inReset (n : Nat) : (s.useFree n).inReset = s.inReset := rfl
@[simp] theorem State.useFree_left (n : Nat) : (s.useFree n).left = s.left := rfl
@[simp] theorem State.useFree_delays (n : Nat) : (s.useFree n).delays = s.delays := rfl
@[simp] theorem State.useFree_host (n : Nat) : (s.useFree n).host = s.host := rfl
@[simp] theorem State.useFree_pending (n : Nat) : (s.useFree n).pending = s.pending := rfl
@[simp] theorem State.useFree_responses (n : Nat) : (s.useFree n).responses = s.responses := rfl
@[simp] theorem State.useFree_freeCount (n : Nat) : (s.useFree n).freeCount = s.freeCount + n := rfl

@[simp] theorem State.accept_addrBits (w : Word) : (s.accept w).addrBits = s.addrBits := rfl
@[simp] theorem State.accept_ctrl (w : Word) : (s.accept w).ctrl = s.ctrl := rfl
@[simp] theorem State.accept_status (w : Word) : (s.accept w).status = { s.status with done := false } := rfl
@[simp] theorem State.accept_csumOps (w : Word) : (s.accept w).csumOps = s.csumOps := rfl
@[simp] theorem State.accept_csumRes (w : Word) : (s.accept w).csumRes = s.csumRes := rfl
@[simp] theorem State.accept_parseOps (w : Word) : (s.accept w).parseOps = s.parseOps := rfl
@[simp] theorem State.accept_parseRes (w : Word) : (s.accept w).parseRes = s.parseRes := rfl
@[simp] theorem State.accept_buildOps (w : Word) : (s.accept w).buildOps = s.buildOps := rfl
@[simp] theorem State.accept_txLen (w : Word) : (s.accept w).txLen = s.txLen := rfl
@[simp] theorem State.accept_buf (w : Word) : (s.accept w).buf = s.buf := rfl
@[simp] theorem State.accept_phase (w : Word) : (s.accept w).phase = .busy (s.latchOf w) := rfl
@[simp] theorem State.accept_inReset (w : Word) : (s.accept w).inReset = s.inReset := rfl
@[simp] theorem State.accept_left (w : Word) : (s.accept w).left = s.nextDelay := rfl
@[simp] theorem State.accept_delays (w : Word) : (s.accept w).delays = s.delays.tail := rfl
@[simp] theorem State.accept_host (w : Word) : (s.accept w).host = s.host := rfl
@[simp] theorem State.accept_pending (w : Word) : (s.accept w).pending = s.pending := rfl
@[simp] theorem State.accept_responses (w : Word) : (s.accept w).responses = s.responses := rfl
@[simp] theorem State.accept_freeCount (w : Word) : (s.accept w).freeCount = s.freeCount + 1 := rfl

@[simp] theorem State.setParse_addrBits (r : ParseResults) (v : Bool) : (s.setParse r v).addrBits = s.addrBits := rfl
@[simp] theorem State.setParse_ctrl (r : ParseResults) (v : Bool) : (s.setParse r v).ctrl = s.ctrl := rfl
@[simp] theorem State.setParse_status (r : ParseResults) (v : Bool) : (s.setParse r v).status =
    { s.status with rxValid := v } := rfl
@[simp] theorem State.setParse_csumOps (r : ParseResults) (v : Bool) : (s.setParse r v).csumOps = s.csumOps := rfl
@[simp] theorem State.setParse_csumRes (r : ParseResults) (v : Bool) : (s.setParse r v).csumRes = s.csumRes := rfl
@[simp] theorem State.setParse_parseOps (r : ParseResults) (v : Bool) : (s.setParse r v).parseOps = s.parseOps := rfl
@[simp] theorem State.setParse_parseRes (r : ParseResults) (v : Bool) : (s.setParse r v).parseRes = r := rfl
@[simp] theorem State.setParse_buildOps (r : ParseResults) (v : Bool) : (s.setParse r v).buildOps = s.buildOps := rfl
@[simp] theorem State.setParse_txLen (r : ParseResults) (v : Bool) : (s.setParse r v).txLen = s.txLen := rfl
@[simp] theorem State.setParse_buf (r : ParseResults) (v : Bool) : (s.setParse r v).buf = s.buf := rfl
@[simp] theorem State.setParse_phase (r : ParseResults) (v : Bool) : (s.setParse r v).phase = s.phase := rfl
@[simp] theorem State.setParse_inReset (r : ParseResults) (v : Bool) : (s.setParse r v).inReset = s.inReset := rfl
@[simp] theorem State.setParse_left (r : ParseResults) (v : Bool) : (s.setParse r v).left = s.left := rfl
@[simp] theorem State.setParse_delays (r : ParseResults) (v : Bool) : (s.setParse r v).delays = s.delays := rfl
@[simp] theorem State.setParse_host (r : ParseResults) (v : Bool) : (s.setParse r v).host = s.host := rfl
@[simp] theorem State.setParse_pending (r : ParseResults) (v : Bool) : (s.setParse r v).pending = s.pending := rfl
@[simp] theorem State.setParse_responses (r : ParseResults) (v : Bool) : (s.setParse r v).responses = s.responses := rfl
@[simp] theorem State.setParse_freeCount (r : ParseResults) (v : Bool) : (s.setParse r v).freeCount = s.freeCount := rfl

@[simp] theorem State.setCsum_addrBits (a r : Half) : (s.setCsum a r).addrBits = s.addrBits := rfl
@[simp] theorem State.setCsum_ctrl (a r : Half) : (s.setCsum a r).ctrl = s.ctrl := rfl
@[simp] theorem State.setCsum_status (a r : Half) : (s.setCsum a r).status = s.status := rfl
@[simp] theorem State.setCsum_csumOps (a r : Half) : (s.setCsum a r).csumOps = s.csumOps := rfl
@[simp] theorem State.setCsum_csumRes (a r : Half) : (s.setCsum a r).csumRes = { result := r, acc := a } := rfl
@[simp] theorem State.setCsum_parseOps (a r : Half) : (s.setCsum a r).parseOps = s.parseOps := rfl
@[simp] theorem State.setCsum_parseRes (a r : Half) : (s.setCsum a r).parseRes = s.parseRes := rfl
@[simp] theorem State.setCsum_buildOps (a r : Half) : (s.setCsum a r).buildOps = s.buildOps := rfl
@[simp] theorem State.setCsum_txLen (a r : Half) : (s.setCsum a r).txLen = s.txLen := rfl
@[simp] theorem State.setCsum_buf (a r : Half) : (s.setCsum a r).buf = s.buf := rfl
@[simp] theorem State.setCsum_phase (a r : Half) : (s.setCsum a r).phase = s.phase := rfl
@[simp] theorem State.setCsum_inReset (a r : Half) : (s.setCsum a r).inReset = s.inReset := rfl
@[simp] theorem State.setCsum_left (a r : Half) : (s.setCsum a r).left = s.left := rfl
@[simp] theorem State.setCsum_delays (a r : Half) : (s.setCsum a r).delays = s.delays := rfl
@[simp] theorem State.setCsum_host (a r : Half) : (s.setCsum a r).host = s.host := rfl
@[simp] theorem State.setCsum_pending (a r : Half) : (s.setCsum a r).pending = s.pending := rfl
@[simp] theorem State.setCsum_responses (a r : Half) : (s.setCsum a r).responses = s.responses := rfl
@[simp] theorem State.setCsum_freeCount (a r : Half) : (s.setCsum a r).freeCount = s.freeCount := rfl

@[simp] theorem State.setTxLen_addrBits (v : Word) : (s.setTxLen v).addrBits = s.addrBits := rfl
@[simp] theorem State.setTxLen_ctrl (v : Word) : (s.setTxLen v).ctrl = s.ctrl := rfl
@[simp] theorem State.setTxLen_status (v : Word) : (s.setTxLen v).status = s.status := rfl
@[simp] theorem State.setTxLen_csumOps (v : Word) : (s.setTxLen v).csumOps = s.csumOps := rfl
@[simp] theorem State.setTxLen_csumRes (v : Word) : (s.setTxLen v).csumRes = s.csumRes := rfl
@[simp] theorem State.setTxLen_parseOps (v : Word) : (s.setTxLen v).parseOps = s.parseOps := rfl
@[simp] theorem State.setTxLen_parseRes (v : Word) : (s.setTxLen v).parseRes = s.parseRes := rfl
@[simp] theorem State.setTxLen_buildOps (v : Word) : (s.setTxLen v).buildOps = s.buildOps := rfl
@[simp] theorem State.setTxLen_txLen (v : Word) : (s.setTxLen v).txLen = v := rfl
@[simp] theorem State.setTxLen_buf (v : Word) : (s.setTxLen v).buf = s.buf := rfl
@[simp] theorem State.setTxLen_phase (v : Word) : (s.setTxLen v).phase = s.phase := rfl
@[simp] theorem State.setTxLen_inReset (v : Word) : (s.setTxLen v).inReset = s.inReset := rfl
@[simp] theorem State.setTxLen_left (v : Word) : (s.setTxLen v).left = s.left := rfl
@[simp] theorem State.setTxLen_delays (v : Word) : (s.setTxLen v).delays = s.delays := rfl
@[simp] theorem State.setTxLen_host (v : Word) : (s.setTxLen v).host = s.host := rfl
@[simp] theorem State.setTxLen_pending (v : Word) : (s.setTxLen v).pending = s.pending := rfl
@[simp] theorem State.setTxLen_responses (v : Word) : (s.setTxLen v).responses = s.responses := rfl
@[simp] theorem State.setTxLen_freeCount (v : Word) : (s.setTxLen v).freeCount = s.freeCount := rfl

@[simp] theorem State.writeFrame_addrBits (o : BuildOperands) : (s.writeFrame o).addrBits = s.addrBits := rfl
@[simp] theorem State.writeFrame_ctrl (o : BuildOperands) : (s.writeFrame o).ctrl = s.ctrl := rfl
@[simp] theorem State.writeFrame_status (o : BuildOperands) : (s.writeFrame o).status = s.status := rfl
@[simp] theorem State.writeFrame_csumOps (o : BuildOperands) : (s.writeFrame o).csumOps = s.csumOps := rfl
@[simp] theorem State.writeFrame_csumRes (o : BuildOperands) : (s.writeFrame o).csumRes = s.csumRes := rfl
@[simp] theorem State.writeFrame_parseOps (o : BuildOperands) : (s.writeFrame o).parseOps = s.parseOps := rfl
@[simp] theorem State.writeFrame_parseRes (o : BuildOperands) : (s.writeFrame o).parseRes = s.parseRes := rfl
@[simp] theorem State.writeFrame_buildOps (o : BuildOperands) : (s.writeFrame o).buildOps =
    { s.buildOps with pktId := o.pktId + 1 } := rfl
@[simp] theorem State.writeFrame_txLen (o : BuildOperands) : (s.writeFrame o).txLen = BitVec.ofNat 32 o.total := by
  simp only [State.writeFrame]
@[simp] theorem State.writeFrame_buf (o : BuildOperands) : (s.writeFrame o).buf = s.buf.writeSpan o.base.toNat (o.frame (s.buf.readSpan o.plBase.toNat o.plLen.toNat)) := by
  simp only [State.writeFrame]
@[simp] theorem State.writeFrame_phase (o : BuildOperands) : (s.writeFrame o).phase = s.phase := rfl
@[simp] theorem State.writeFrame_inReset (o : BuildOperands) : (s.writeFrame o).inReset = s.inReset := rfl
@[simp] theorem State.writeFrame_left (o : BuildOperands) : (s.writeFrame o).left = s.left := rfl
@[simp] theorem State.writeFrame_delays (o : BuildOperands) : (s.writeFrame o).delays = s.delays := rfl
@[simp] theorem State.writeFrame_host (o : BuildOperands) : (s.writeFrame o).host = s.host := rfl
@[simp] theorem State.writeFrame_pending (o : BuildOperands) : (s.writeFrame o).pending = s.pending := rfl
@[simp] theorem State.writeFrame_responses (o : BuildOperands) : (s.writeFrame o).responses = s.responses := rfl
@[simp] theorem State.writeFrame_freeCount (o : BuildOperands) : (s.writeFrame o).freeCount = s.freeCount := rfl

@[simp] theorem State.writeStatus_addrBits (w : Word) : (s.writeStatus w).addrBits = s.addrBits := rfl
@[simp] theorem State.writeStatus_ctrl (w : Word) : (s.writeStatus w).ctrl = s.ctrl := rfl
@[simp] theorem State.writeStatus_status (w : Word) : (s.writeStatus w).status =
    { s.status with done := s.status.done && !w.getLsbD 1, ovr := s.status.ovr && !w.getLsbD 2 } := rfl
@[simp] theorem State.writeStatus_csumOps (w : Word) : (s.writeStatus w).csumOps = s.csumOps := rfl
@[simp] theorem State.writeStatus_csumRes (w : Word) : (s.writeStatus w).csumRes = s.csumRes := rfl
@[simp] theorem State.writeStatus_parseOps (w : Word) : (s.writeStatus w).parseOps = s.parseOps := rfl
@[simp] theorem State.writeStatus_parseRes (w : Word) : (s.writeStatus w).parseRes = s.parseRes := rfl
@[simp] theorem State.writeStatus_buildOps (w : Word) : (s.writeStatus w).buildOps = s.buildOps := rfl
@[simp] theorem State.writeStatus_txLen (w : Word) : (s.writeStatus w).txLen = s.txLen := rfl
@[simp] theorem State.writeStatus_buf (w : Word) : (s.writeStatus w).buf = s.buf := rfl
@[simp] theorem State.writeStatus_phase (w : Word) : (s.writeStatus w).phase = s.phase := rfl
@[simp] theorem State.writeStatus_inReset (w : Word) : (s.writeStatus w).inReset = s.inReset := rfl
@[simp] theorem State.writeStatus_left (w : Word) : (s.writeStatus w).left = s.left := rfl
@[simp] theorem State.writeStatus_delays (w : Word) : (s.writeStatus w).delays = s.delays := rfl
@[simp] theorem State.writeStatus_host (w : Word) : (s.writeStatus w).host = s.host := rfl
@[simp] theorem State.writeStatus_pending (w : Word) : (s.writeStatus w).pending = s.pending := rfl
@[simp] theorem State.writeStatus_responses (w : Word) : (s.writeStatus w).responses = s.responses := rfl
@[simp] theorem State.writeStatus_freeCount (w : Word) : (s.writeStatus w).freeCount = s.freeCount := rfl

@[simp] theorem State.releaseReset_addrBits : (s.releaseReset).addrBits = s.addrBits := rfl
@[simp] theorem State.releaseReset_ctrl : (s.releaseReset).ctrl = s.ctrl := rfl
@[simp] theorem State.releaseReset_status : (s.releaseReset).status = s.status := rfl
@[simp] theorem State.releaseReset_csumOps : (s.releaseReset).csumOps = s.csumOps := rfl
@[simp] theorem State.releaseReset_csumRes : (s.releaseReset).csumRes = s.csumRes := rfl
@[simp] theorem State.releaseReset_parseOps : (s.releaseReset).parseOps = s.parseOps := rfl
@[simp] theorem State.releaseReset_parseRes : (s.releaseReset).parseRes = s.parseRes := rfl
@[simp] theorem State.releaseReset_buildOps : (s.releaseReset).buildOps = s.buildOps := rfl
@[simp] theorem State.releaseReset_txLen : (s.releaseReset).txLen = s.txLen := rfl
@[simp] theorem State.releaseReset_buf : (s.releaseReset).buf = s.buf := rfl
@[simp] theorem State.releaseReset_phase : (s.releaseReset).phase = s.phase := rfl
@[simp] theorem State.releaseReset_inReset : (s.releaseReset).inReset = false := rfl
@[simp] theorem State.releaseReset_left : (s.releaseReset).left = s.left := rfl
@[simp] theorem State.releaseReset_delays : (s.releaseReset).delays = s.delays := rfl
@[simp] theorem State.releaseReset_host : (s.releaseReset).host = s.host := rfl
@[simp] theorem State.releaseReset_pending : (s.releaseReset).pending = s.pending := rfl
@[simp] theorem State.releaseReset_responses : (s.releaseReset).responses = s.responses := rfl
@[simp] theorem State.releaseReset_freeCount : (s.releaseReset).freeCount = s.freeCount := rfl

@[simp] theorem State.resetRegisters_addrBits : (s.resetRegisters).addrBits = s.addrBits := rfl
@[simp] theorem State.resetRegisters_ctrl : (s.resetRegisters).ctrl = State.reset.ctrl := rfl
@[simp] theorem State.resetRegisters_status : (s.resetRegisters).status = State.reset.status := rfl
@[simp] theorem State.resetRegisters_csumOps : (s.resetRegisters).csumOps = State.reset.csumOps := rfl
@[simp] theorem State.resetRegisters_csumRes : (s.resetRegisters).csumRes = State.reset.csumRes := rfl
@[simp] theorem State.resetRegisters_parseOps : (s.resetRegisters).parseOps = State.reset.parseOps := rfl
@[simp] theorem State.resetRegisters_parseRes : (s.resetRegisters).parseRes = State.reset.parseRes := rfl
@[simp] theorem State.resetRegisters_buildOps : (s.resetRegisters).buildOps = State.reset.buildOps := rfl
@[simp] theorem State.resetRegisters_txLen : (s.resetRegisters).txLen = State.reset.txLen := rfl
@[simp] theorem State.resetRegisters_buf : (s.resetRegisters).buf = s.buf := rfl
@[simp] theorem State.resetRegisters_phase : (s.resetRegisters).phase = .idle := rfl
@[simp] theorem State.resetRegisters_inReset : (s.resetRegisters).inReset = s.inReset := rfl
@[simp] theorem State.resetRegisters_left : (s.resetRegisters).left = 0 := rfl
@[simp] theorem State.resetRegisters_delays : (s.resetRegisters).delays = s.delays := rfl
@[simp] theorem State.resetRegisters_host : (s.resetRegisters).host = s.host := rfl
@[simp] theorem State.resetRegisters_pending : (s.resetRegisters).pending = s.pending := rfl
@[simp] theorem State.resetRegisters_responses : (s.resetRegisters).responses = s.responses := rfl
@[simp] theorem State.resetRegisters_freeCount : (s.resetRegisters).freeCount = s.freeCount := rfl

end Sys2Proof.Machine
end

