-- ==== Sys2Proof/Laws/Exec.lean ====
section
/-! SUPPORT. What each command does, said once: one lemma per outcome, and the inversion of each command's checks. -/

namespace Sys2Proof.Machine

@[simp] theorem length_bytesBe16 (v : Half) : (bytesBe16 v).length = 2 := rfl

@[simp] theorem length_bytesBe32 (v : Word) : (bytesBe32 v).length = 4 := rfl

@[simp] theorem length_ipHeader (o : BuildOperands) (c : Half) : (o.ipHeader c).length = 20 := rfl

@[simp] theorem length_udpHeader (o : BuildOperands) : o.udpHeader.length = 8 := rfl

@[simp] theorem length_frame (o : BuildOperands) (p : List Byte) : (o.frame p).length = 28 + p.length := by
  simp [BuildOperands.frame]; omega

theorem spanInBuf_iff (s : State) (b n : Nat) : s.spanInBuf b n = true ↔ b + n ≤ s.bufSize := by
  simp [State.spanInBuf]

theorem inSpan_iff (b n a : Nat) : inSpan b n a = true ↔ b ≤ a ∧ a < b + n := by simp [inSpan]

/-- BUF_SIZE is at most 2^24, so a buffer address fits a register (R3). -/
theorem bufSize_le (s : State) : s.bufSize ≤ 2 ^ 24 :=
  Nat.pow_le_pow_right (by decide) s.addrBits.le_24

theorem exec_csum_ok {s : State} (h : s.csumOperands.base.toNat + s.csumOperands.len.toNat ≤ s.bufSize) :
    exec .csum s = .next ((s.setCsum
      (inetCsum (s.buf.readSpan s.csumOperands.base.toNat s.csumOperands.len.toNat)).1
      (inetCsum (s.buf.readSpan s.csumOperands.base.toNat s.csumOperands.len.toNat)).2).complete 1 .ok) := by
  simp [exec, execCsum, (spanInBuf_iff s _ _).2 h]

theorem exec_csum_range {s : State} (h : s.bufSize < s.csumOperands.base.toNat + s.csumOperands.len.toNat) :
    exec .csum s = .next ((s.setCsum 0 0).complete 1 .range) := by
  have : s.spanInBuf s.csumOperands.base.toNat s.csumOperands.len.toNat = false := by
    simp [State.spanInBuf]; omega
  simp [exec, execCsum, this]

theorem exec_parse_fail {s : State} {c : StatusCode} (h : s.parseFailure s.parseOperands = some c) :
    exec .parse s = .next ((s.setParse parseCleared false).complete 2 c) := by
  simp [exec, execParse, h]

theorem exec_parse_ok {s : State} (h : s.parseFailure s.parseOperands = none) :
    exec .parse s = .next ((s.setParse (s.parseFields s.parseOperands) true).complete 2 .ok) := by
  simp [exec, execParse, h]

theorem exec_build_fail {s : State} {c : StatusCode} (h : s.buildFailure s.buildOperands = some c) :
    exec .build s = .next ((s.setTxLen 0).complete 3 c) := by
  simp [exec, execBuild, h]

theorem exec_build_ok {s : State} (h : s.buildFailure s.buildOperands = none) :
    exec .build s = .next ((s.writeFrame s.buildOperands).complete 3 .ok) := by
  simp [exec, execBuild, h]

/-- CSUM's two outcomes. -/
theorem exec_csum_cases (s : State) :
    (s.csumOperands.base.toNat + s.csumOperands.len.toNat ≤ s.bufSize ∧ exec .csum s = .next ((s.setCsum
      (inetCsum (s.buf.readSpan s.csumOperands.base.toNat s.csumOperands.len.toNat)).1
      (inetCsum (s.buf.readSpan s.csumOperands.base.toNat s.csumOperands.len.toNat)).2).complete 1 .ok)) ∨
    (s.bufSize < s.csumOperands.base.toNat + s.csumOperands.len.toNat ∧
      exec .csum s = .next ((s.setCsum 0 0).complete 1 .range)) :=
  (Nat.lt_or_ge s.bufSize (s.csumOperands.base.toNat + s.csumOperands.len.toNat)).elim
    (fun h => .inr ⟨h, exec_csum_range h⟩) (fun h => .inl ⟨h, exec_csum_ok h⟩)

/-- PARSE's two outcomes. -/
theorem exec_parse_cases (s : State) :
    (s.parseFailure s.parseOperands = none ∧
      exec .parse s = .next ((s.setParse (s.parseFields s.parseOperands) true).complete 2 .ok)) ∨
    (∃ c, s.parseFailure s.parseOperands = some c ∧
      exec .parse s = .next ((s.setParse parseCleared false).complete 2 c)) := by
  cases h : s.parseFailure s.parseOperands with
  | none => exact .inl ⟨rfl, exec_parse_ok h⟩
  | some c => exact .inr ⟨c, rfl, exec_parse_fail h⟩

/-- BUILD's two outcomes. -/
theorem exec_build_cases (s : State) :
    (s.buildFailure s.buildOperands = none ∧
      exec .build s = .next ((s.writeFrame s.buildOperands).complete 3 .ok)) ∨
    (∃ c, s.buildFailure s.buildOperands = some c ∧ exec .build s = .next ((s.setTxLen 0).complete 3 c)) := by
  cases h : s.buildFailure s.buildOperands with
  | none => exact .inl ⟨rfl, exec_build_ok h⟩
  | some c => exact .inr ⟨c, rfl, exec_build_fail h⟩

/-- PARSE accepts a frame exactly when its region check and its four steps pass. -/
theorem parseFailure_eq_none_iff (s : State) (o : ParseOperands) :
    s.parseFailure o = none ↔ o.base.toNat + o.len.toNat ≤ s.bufSize ∧ 20 ≤ o.len.toNat ∧
      s.frameVersion o = 4 ∧ s.frameByte o 9 = udpProtocol ∧ s.frameOffset o ≤ o.len.toNat := by
  simp only [State.parseFailure, State.spanInBuf]
  grind

/-- A code PARSE reports is one of R202's, and not OK. -/
theorem parseFailure_code {s : State} {o : ParseOperands} {c : StatusCode} (h : s.parseFailure o = some c) :
    c = .range ∨ c = .truncated ∨ c = .notIpv4 ∨ c = .notUdp := by
  simp only [State.parseFailure] at h
  grind

theorem parseFailure_range_iff (s : State) (o : ParseOperands) :
    s.parseFailure o = some .range ↔ s.bufSize < o.base.toNat + o.len.toNat := by
  simp only [State.parseFailure, State.spanInBuf]
  grind

/-- BUILD makes a frame exactly when its four tests pass. -/
theorem buildFailure_eq_none_iff (s : State) : s.buildFailure s.buildOperands = none ↔ s.BuildOk := by
  constructor
  · intro h
    simp only [State.buildFailure, State.spanInBuf, BuildOperands.total] at h
    constructor <;> grind
  · rintro ⟨h1, h2, h3, h4, h5⟩
    simp only [State.buildFailure, State.spanInBuf, BuildOperands.total]
    grind

/-- A code BUILD reports is one of R202's, and not OK. -/
theorem buildFailure_code {s : State} {o : BuildOperands} {c : StatusCode} (h : s.buildFailure o = some c) :
    c = .range ∨ c = .tooBig ∨ c = .size ∨ c = .afNoSupport := by
  simp only [State.buildFailure] at h
  grind

theorem buildFailure_range_iff (s : State) (o : BuildOperands) :
    s.buildFailure o = some .range ↔
      s.bufSize < o.base.toNat + o.cap.toNat ∨ s.bufSize < o.plBase.toNat + o.plLen.toNat := by
  simp only [State.buildFailure, State.spanInBuf]
  grind

/-- Inversion: a BUILD that completed with OK had all its tests pass, and this is the state it left. -/
theorem exec_build_inv {s t : State} (h : exec .build s = .next t) (hok : t.status.err = .ok) :
    s.BuildOk ∧ t = (s.writeFrame s.buildOperands).complete 3 .ok := by
  obtain ⟨hf, he⟩ | ⟨c, hf, he⟩ := exec_build_cases s <;> rw [he] at h <;> obtain rfl := Host.Outcome.next.inj h
  · exact ⟨(buildFailure_eq_none_iff s).1 hf, rfl⟩
  · rcases buildFailure_code hf with rfl | rfl | rfl | rfl <;> simp at hok

/-- A byte of the frame a successful BUILD wrote. -/
theorem read_built {s t : State} (h : exec .build s = .next t) (hok : t.status.err = .ok) (k : Nat)
    (hk : k < 28 + s.buildOperands.plLen.toNat) :
    t.buf.read (s.buildOperands.base.toNat + k) =
      (s.buildOperands.frame (s.buf.readSpan s.buildOperands.plBase.toNat s.buildOperands.plLen.toNat))[k]'(by
        simpa using hk) := by
  obtain ⟨-, rfl⟩ := exec_build_inv h hok
  simpa using Memory.read_writeSpan_inside _ _ _ _ (by simpa using hk)

/-- Every command completes: exec answers a next state, Idle, with DONE set and LAST_OP its opcode, and nothing outside
the block has changed. -/
theorem exec_completes (i : Instr) (s : State) :
    ∃ t, exec i s = .next t ∧ t.phase = .idle ∧ t.status.done = true ∧ t.status.lastOp = opField (encode i) ∧
      t.status.ovr = s.status.ovr ∧ t.ctrl = s.ctrl ∧ t.addrBits = s.addrBits ∧ t.csumOps = s.csumOps ∧
      t.parseOps = s.parseOps ∧ t.inReset = s.inReset ∧ t.left = s.left ∧ t.delays = s.delays ∧
      t.host = s.host ∧ t.pending = s.pending ∧ t.responses = s.responses ∧ t.freeCount = s.freeCount := by
  cases i with
  | csum => obtain ⟨-, h⟩ | ⟨-, h⟩ := exec_csum_cases s <;> exact ⟨_, h, by simp [opField, encode]⟩
  | parse => obtain ⟨-, h⟩ | ⟨c, -, h⟩ := exec_parse_cases s <;> exact ⟨_, h, by simp [opField, encode]⟩
  | build => obtain ⟨-, h⟩ | ⟨c, -, h⟩ := exec_build_cases s <;> exact ⟨_, h, by simp [opField, encode]⟩

end Sys2Proof.Machine
end

