-- ==== Sys2Proof/Laws/Registers.lean ====
section
/-! SUPPORT. The register map and what a read and a write of a register do. -/

namespace Sys2Proof.Machine

theorem isBusy_iff (s : State) : s.isBusy = true ↔ ∃ l, s.phase = .busy l := by
  unfold State.isBusy; cases s.phase <;> simp

theorem isBusy_eq_false_iff (s : State) : s.isBusy = false ↔ s.phase = .idle := by
  unfold State.isBusy; cases s.phase <;> simp

/-- A register has one offset. -/
theorem atOffset_offset (r : Reg) : Reg.atOffset r.offset = some r := by cases r <;> rfl

theorem atOffset_some {off : BitVec 8} {r : Reg} (h : Reg.atOffset off = some r) : off = r.offset := by
  have hr : (r.offset == off) = true := List.find?_some (p := fun r : Reg => r.offset == off) (l := Reg.all) h
  exact (beq_iff_eq.1 hr).symm

theorem mem_all (r : Reg) : r ∈ Reg.all := by cases r <;> decide

theorem atOffset_none_iff (off : BitVec 8) : Reg.atOffset off = none ↔ ∀ r : Reg, off ≠ r.offset := by
  constructor
  · intro h r hr; rw [hr, atOffset_offset] at h; exact absurd h (by simp)
  · intro h
    cases h' : Reg.atOffset off with
    | none => rfl
    | some r => exact absurd (atOffset_some h') (h r)

theorem readOffset_offset (s : State) (r : Reg) : s.readOffset r.offset = s.readReg r := by
  simp only [State.readOffset, atOffset_offset]

theorem writeOffset_offset (s : State) (v : Word) (r : Reg) : s.writeOffset r.offset v = s.writeReg v r := by
  simp only [State.writeOffset, atOffset_offset]

theorem readOffset_unmapped {s : State} {off : BitVec 8} (h : ∀ r : Reg, off ≠ r.offset) : s.readOffset off = 0 := by
  simp only [State.readOffset, (atOffset_none_iff off).2 h]

theorem writeOffset_unmapped {s : State} {off : BitVec 8} {v : Word} (h : ∀ r : Reg, off ≠ r.offset) :
    s.writeOffset off v = s := by
  simp only [State.writeOffset, (atOffset_none_iff off).2 h]

theorem writeReg_ro {s : State} {v : Word} {r : Reg} (h : r.access = .ro) : s.writeReg v r = s := by
  simp only [State.writeReg, h]

/-- A busy-gated write while Busy is lost and sets OVR. -/
theorem writeReg_busy {s : State} {v : Word} {r : Reg} (h : r.access = .wo ∨ r.access = .rwGated)
    (hb : s.isBusy = true) : s.writeReg v r = s.overrun := by
  rcases h with h | h <;> simp only [State.writeReg, h, hb, if_true]

/-- A CMD write while Idle is accepted. -/
theorem writeReg_cmd_idle {s : State} {v : Word} (hb : s.isBusy = false) : s.writeReg v .cmd = s.accept v := by
  simp [State.writeReg, Reg.access, hb]

/-- An operand write while Idle is stored. -/
theorem writeReg_operand_idle {s : State} {v : Word} {r : Reg} (h : r.access = .rwGated) (hb : s.isBusy = false) :
    s.writeReg v r = s.storeOperand v r := by
  simp [State.writeReg, h, hb]

/-- Storing an operand changes operand registers only. -/
theorem storeOperand_eq (s : State) (v : Word) (r : Reg) :
    s.storeOperand v r = { s with
      csumOps := (s.storeOperand v r).csumOps
      parseOps := (s.storeOperand v r).parseOps
      buildOps := (s.storeOperand v r).buildOps } := by
  cases r <;> rfl

/-- What a legal write of the REG aperture can do. -/
theorem writeOffset_cases (s : State) (off : BitVec 8) (v : Word) :
    (s.writeOffset off v = s) ∨
    (off = 0x04 ∧ s.writeOffset off v = { s with ctrl := Ctrl.ofWord v }) ∨
    (off = 0x08 ∧ s.writeOffset off v = s.writeStatus v) ∨
    (s.isBusy = true ∧ s.writeOffset off v = s.overrun ∧
      ∃ r : Reg, off = r.offset ∧ (r.access = .wo ∨ r.access = .rwGated)) ∨
    (off = 0x0C ∧ s.isBusy = false ∧ s.writeOffset off v = s.accept v) ∨
    (s.isBusy = false ∧ ∃ r : Reg, off = r.offset ∧ r.access = .rwGated ∧
      s.writeOffset off v = s.storeOperand v r) := by
  unfold State.writeOffset
  cases h : Reg.atOffset off with
  | none => simp
  | some r =>
    have hoff := atOffset_some h
    simp only [State.writeReg]
    cases ha : r.access with
    | ro => exact .inl rfl
    | rw =>
      have : r = .ctrl := by cases r <;> simp_all [Reg.access]
      subst this; exact .inr (.inl ⟨hoff, rfl⟩)
    | w1c =>
      have : r = .status := by cases r <;> simp_all [Reg.access]
      subst this; exact .inr (.inr (.inl ⟨hoff, rfl⟩))
    | wo =>
      have : r = .cmd := by cases r <;> simp_all [Reg.access]
      subst this
      cases hb : s.isBusy with
      | true => exact .inr (.inr (.inr (.inl ⟨rfl, rfl, _, hoff, .inl ha⟩)))
      | false => exact .inr (.inr (.inr (.inr (.inl ⟨hoff, rfl, rfl⟩))))
    | rwGated =>
      cases hb : s.isBusy with
      | true => exact .inr (.inr (.inr (.inl ⟨rfl, rfl, _, hoff, .inr ha⟩)))
      | false => exact .inr (.inr (.inr (.inr (.inr ⟨rfl, _, hoff, ha, rfl⟩))))

end Sys2Proof.Machine
end

