-- ==== Sys2Proof/Laws/Reset.lean ====
section
/-! SUPPORT. Reset: what aborting a command can do, and the state an assertion of reset leaves. -/

namespace Sys2Proof.Machine

@[simp] theorem length_freeBytes (s : State) (n : Nat) : (s.freeBytes n).length = n := by simp [State.freeBytes]

/-- Aborting a command changes nothing, or writes free values over the frame span of a BUILD, which passes the region
check. -/
theorem abortCommand_cases (s : State) :
    s.abortCommand = s ∨
    ∃ word o, s.phase = .busy { word := word, ops := .build o } ∧
      o.base.toNat + (28 + o.plLen.toNat) ≤ s.bufSize ∧
      s.abortCommand = { s with
        buf := s.buf.writeSpan o.base.toNat (s.freeBytes (28 + o.plLen.toNat))
        freeCount := s.freeCount + (28 + o.plLen.toNat) } := by
  unfold State.abortCommand
  split
  · rename_i word o h
    by_cases hs : s.spanInBuf o.base.toNat (28 + o.plLen.toNat) = true
    · exact .inr ⟨word, o, h, by simpa [State.spanInBuf] using hs, by rw [if_pos hs]; rfl⟩
    · exact .inl (by rw [if_neg hs])
  · exact .inl rfl

/-- Aborting a command changes no field but the buffer and the count of free values. -/
theorem abortCommand_eq (s : State) :
    s.abortCommand = { s with buf := s.abortCommand.buf, freeCount := s.abortCommand.freeCount } := by
  rcases abortCommand_cases s with h | ⟨_, _, _, _, h⟩ <;> rw [h]

/-- The state an assertion of reset leaves: every register but CAPS at its reset value, the engine Idle (R230). -/
theorem assertReset_eq (s : State) :
    s.assertReset = { State.reset with
      addrBits := s.addrBits, buf := s.abortCommand.buf, inReset := true, delays := s.delays, host := s.host
      pending := s.pending, responses := s.responses, freeCount := s.abortCommand.freeCount } := by
  rw [State.assertReset, State.resetRegisters, abortCommand_eq s]
  rfl

/-- Reset keeps the buffer in its canonical form. -/
theorem wf_abortCommand {s : State} (h : s.buf.wf = true) : s.abortCommand.buf.wf = true := by
  rcases abortCommand_cases s with e | ⟨_, _, _, _, e⟩ <;> rw [e]
  · exact h
  · exact Memory.wf_writeSpan _ _ _ h

/-- Reset keeps the buffer inside its aperture. -/
theorem bounded_abortCommand {s : State} (h : ∀ c ∈ s.buf, c.1 < s.bufSize) :
    ∀ c ∈ s.abortCommand.buf, c.1 < s.bufSize := by
  rcases abortCommand_cases s with e | ⟨_, o, _, hb, e⟩ <;> rw [e]
  · exact h
  · exact Memory.bounded_writeSpan h (by simpa using hb)

/-- The memory right after reset is in its canonical form. -/
theorem wf_reset : State.reset.buf.wf = true := rfl

end Sys2Proof.Machine
end

