-- ==== Sys2Proof/Laws/Step.lean ====
section
/-! SUPPORT. What a step can do, said once: which agent moves, and what an event of the outside world leaves. -/

namespace Sys2Proof.Machine

theorem turn_engine_iff (s : State) (w : Word) :
    s.turn = .engine w ↔ ∃ l, s.phase = .busy l ∧ l.word = w ∧ (s.left = 0 ∨ s.pending = []) := by
  unfold State.turn
  cases s.phase <;> cases s.pending <;> grind

theorem turn_host_iff (s : State) (e : HostEvent) :
    s.turn = .host e ↔ (∃ rest, s.pending = e :: rest) ∧ (s.phase = .idle ∨ s.left ≠ 0) := by
  unfold State.turn
  cases s.phase <;> cases s.pending <;> simp
  grind

theorem turn_idle_iff (s : State) : s.turn = .idle ↔ s.phase = .idle ∧ s.pending = [] := by
  unfold State.turn
  cases s.phase <;> cases s.pending <;> grind

theorem step_of_engine {s : State} {w : Word} (h : s.turn = .engine w) : step s = runWord w s := by
  simp [step, h]

theorem step_of_host {s : State} {e : HostEvent} (h : s.turn = .host e) : step s = s.hostStep e := by
  simp [step, h]

theorem step_of_idle {s : State} (h : s.turn = .idle) : step s = .next s := by
  simp [step, h]

theorem runWord_ok {w : Word} {i : Instr} (h : decode w = .ok i) (s : State) : runWord w s = exec i s := by
  simp [runWord, h]

theorem runWord_invalid {w : Word} (h : ∀ i, decode w ≠ .ok i) (s : State) :
    runWord w s = .next (s.complete (opField w) .badCmd) := by
  obtain ⟨i, hi⟩ | ⟨e, he⟩ := decode_cases w
  · exact absurd hi (h i)
  · simp [runWord, he, execInvalid]

/-- Who moved: a step that goes on is a completion, an event of the outside world, or nothing at all. -/
theorem step_cases {s t : State} (h : step s = .next t) :
    (∃ w i, s.turn = .engine w ∧ decode w = .ok i ∧ exec i s = .next t) ∨
    (∃ w, s.turn = .engine w ∧ (∀ i, decode w ≠ .ok i) ∧ t = s.complete (opField w) .badCmd) ∨
    (∃ e, s.turn = .host e ∧ s.hostStep e = .next t) ∨ (s.turn = .idle ∧ t = s) := by
  cases ht : s.turn with
  | engine w =>
    rw [step_of_engine ht] at h
    obtain ⟨i, hi⟩ | ⟨e, he⟩ := decode_cases w
    · exact .inl ⟨w, i, rfl, hi, by rwa [runWord_ok hi] at h⟩
    · have hn : ∀ i, decode w ≠ .ok i := by simp [he]
      rw [runWord_invalid hn] at h
      exact .inr (.inl ⟨w, rfl, hn, (Host.Outcome.next.inj h).symm⟩)
  | host e => exact .inr (.inr (.inl ⟨e, rfl, by rwa [step_of_host ht] at h⟩))
  | idle => exact .inr (.inr (.inr ⟨rfl, by rw [step_of_idle ht] at h; exact (Host.Outcome.next.inj h).symm⟩))

/-- An access that leaves the whole block alone: it may use up free values, and record a response or a host fault. -/
theorem sameBlock_host (s : State) (left : Nat) (host : HostProgram) (pending : List HostEvent)
    (responses : List BusResponse) (freeCount : Nat) :
    SameBlock s { s with
      left := left, host := host, pending := pending, responses := responses, freeCount := freeCount } :=
  ⟨⟨rfl, rfl, rfl, rfl, rfl, rfl, rfl, rfl, rfl⟩, rfl, rfl, rfl⟩

/-- A host access runs only for a running host out of reset; otherwise the block is left alone. -/
theorem hostAccess_cases {s t : State} {f : State → Host.Outcome State Fault Refusal}
    (h : s.hostAccess f = .next t) :
    (s.host = .running ∧ s.inReset = false ∧ f s.pop.tick = .next t) ∨ t = s.pop ∨
      t = s.pop.hostFaults .accessInReset := by
  unfold State.hostAccess at h
  cases hh : s.host <;> cases hr : s.inReset <;> simp_all

/-- The polling loop reads STATUS and leaves the block alone. -/
theorem hostPoll_cases {s t : State} (h : s.hostPoll = .next t) :
    t = s.pop ∨ t = s.pop.hostFaults .accessInReset ∨
      (s.isBusy = true ∧ t = s.tick.respond (.data (s.readReg .status))) ∨
      (s.isBusy = false ∧ t = s.pop.tick.respond (.data (s.readReg .status))) := by
  unfold State.hostPoll at h
  cases hh : s.host <;> cases hr : s.inReset <;> cases hb : s.isBusy <;> simp_all

/-- What an event of the outside world can do: reset, a register write, a buffer write, or nothing to the block. -/
theorem hostStep_cases {s t : State} {e : HostEvent} (h : s.hostStep e = .next t) :
    (e = .resetAssert ∧ t = s.pop.assertReset) ∨ (e = .resetRelease ∧ t = s.pop.releaseReset) ∨
    (e ≠ .resetAssert ∧ e ≠ .resetRelease ∧ SameBlock s t) ∨
    (∃ off v, e = .regWrite .w32 off v ∧ s.host = .running ∧ s.inReset = false ∧
      t = (s.pop.tick.writeOffset off v).respond .written) ∨
    (∃ w a v, e = .bufWrite w a v ∧ s.host = .running ∧ s.inReset = false ∧ a < s.bufSize ∧ a % w.bytes = 0 ∧
      (∀ k, k < w.bytes → s.hazardByte (a + k) = false) ∧
      t = { s.pop.tick with buf := s.buf.writeSpan a (leBytes w.bytes v) }.respond .written) := by
  cases e with
  | resetAssert => exact .inl ⟨rfl, (Host.Outcome.next.inj h).symm⟩
  | resetRelease => exact .inr (.inl ⟨rfl, (Host.Outcome.next.inj h).symm⟩)
  | wait =>
    refine .inr (.inr (.inl ⟨by simp, by simp, ?_⟩))
    rcases hostPoll_cases h with rfl | rfl | ⟨-, rfl⟩ | ⟨-, rfl⟩ <;> exact sameBlock_host s _ _ _ _ _
  | regRead w off =>
    refine .inr (.inr (.inl ⟨by simp, by simp, ?_⟩))
    rcases hostAccess_cases (f := fun u => u.hostRegRead w off) h with ⟨-, -, h⟩ | rfl | rfl
    · unfold State.hostRegRead at h
      split at h <;> obtain rfl := Host.Outcome.next.inj h <;> exact sameBlock_host s _ _ _ _ _
    all_goals exact sameBlock_host s _ _ _ _ _
  | bufRead w a =>
    refine .inr (.inr (.inl ⟨by simp, by simp, ?_⟩))
    rcases hostAccess_cases (f := fun u => u.hostBufRead w a) h with ⟨-, -, h⟩ | rfl | rfl
    · unfold State.hostBufRead at h
      split at h
      · simp at h
      · split at h <;> obtain rfl := Host.Outcome.next.inj h <;> exact sameBlock_host s _ _ _ _ _
    all_goals exact sameBlock_host s _ _ _ _ _
  | regWrite w off v =>
    rcases hostAccess_cases (f := fun u => u.hostRegWrite w off v) h with ⟨hh, hr, h⟩ | rfl | rfl
    · unfold State.hostRegWrite at h
      split at h
      · rename_i hl
        have hw : w = .w32 := by simp [regLegal] at hl; exact hl.1
        have ht := Host.Outcome.next.inj h
        subst hw
        exact .inr (.inr (.inr (.inl ⟨_, _, rfl, hh, hr, ht.symm⟩)))
      · obtain rfl := Host.Outcome.next.inj h
        exact .inr (.inr (.inl ⟨by simp, by simp, sameBlock_host s _ _ _ _ _⟩))
    all_goals exact .inr (.inr (.inl ⟨by simp, by simp, sameBlock_host s _ _ _ _ _⟩))
  | bufWrite w a v =>
    rcases hostAccess_cases (f := fun u => u.hostBufWrite w a v) h with ⟨hh, hr, h⟩ | rfl | rfl
    · unfold State.hostBufWrite at h
      split at h
      · simp at h
      rename_i hin
      split at h
      · rename_i hal
        split at h
        · simp at h
        · rename_i hz
          refine .inr (.inr (.inr (.inr ⟨_, _, _, rfl, hh, hr, Nat.lt_of_not_le hin, by simpa [bufAligned] using hal,
            fun k hk => ?_, (Host.Outcome.next.inj h).symm⟩)))
          have := fun x hx => by simpa using (List.any_eq_false.1 (Bool.eq_false_iff.2 hz)) x hx
          exact this k (by simpa using hk)
      · obtain rfl := Host.Outcome.next.inj h
        exact .inr (.inr (.inl ⟨by simp, by simp, sameBlock_host s _ _ _ _ _⟩))
    all_goals exact .inr (.inr (.inl ⟨by simp, by simp, sameBlock_host s _ _ _ _ _⟩))

/-- A legal write of the REG aperture changes no field but CTRL, STATUS, the operands, the phase and the bookkeeping of
the running command. -/
theorem writeOffset_eq (s : State) (off : BitVec 8) (v : Word) :
    s.writeOffset off v = { s with
      ctrl := (s.writeOffset off v).ctrl
      status := (s.writeOffset off v).status
      csumOps := (s.writeOffset off v).csumOps
      parseOps := (s.writeOffset off v).parseOps
      buildOps := (s.writeOffset off v).buildOps
      phase := (s.writeOffset off v).phase
      left := (s.writeOffset off v).left
      delays := (s.writeOffset off v).delays
      freeCount := (s.writeOffset off v).freeCount } := by
  rcases writeOffset_cases s off v with h | ⟨-, h⟩ | ⟨-, h⟩ | ⟨-, h, -⟩ | ⟨-, -, h⟩ | ⟨-, r, -, -, h⟩ <;> rw [h]
  · rfl
  · rfl
  · rfl
  · cases r <;> rfl

/-- BUF_ADDR_BITS is fixed: no step changes it (R21). -/
theorem step_addrBits {s t : State} (h : step s = .next t) : t.addrBits = s.addrBits := by
  rcases step_cases h with ⟨w, i, -, -, h⟩ | ⟨w, -, -, rfl⟩ | ⟨e, -, h⟩ | ⟨-, rfl⟩
  · obtain ⟨u, hu, hh⟩ := exec_completes i s
    rw [hu] at h; obtain rfl := Host.Outcome.next.inj h; exact hh.2.2.2.2.2.1
  · rfl
  · rcases hostStep_cases h with ⟨-, rfl⟩ | ⟨-, rfl⟩ | ⟨-, -, hs⟩ | ⟨off, v, -, -, -, rfl⟩ | ⟨w, a, v, -, -, -, -, -, -, rfl⟩
    · rw [assertReset_eq]; rfl
    · rfl
    · exact hs.addrBits
    · rw [writeOffset_eq]; rfl
    · rfl
  · rfl

end Sys2Proof.Machine
end

