-- ==== Sys2Proof/Laws/Bus.lean ====
section
/-! SUPPORT. A bus access a running host makes out of reset, as one step, and the byte lanes of the bus data (R65). -/

namespace Sys2Proof.Machine

theorem step_regRead {s : State} {w : Width} {off : BitVec 8} (h : s.Accesses (.regRead w off)) :
    step s = s.pop.tick.hostRegRead w off := by
  simp [step_of_host h.turn, State.hostStep, State.hostAccess, h.running, h.outOfReset]

theorem step_regWrite {s : State} {w : Width} {off : BitVec 8} {v : Word} (h : s.Accesses (.regWrite w off v)) :
    step s = s.pop.tick.hostRegWrite w off v := by
  simp [step_of_host h.turn, State.hostStep, State.hostAccess, h.running, h.outOfReset]

theorem step_bufRead {s : State} {w : Width} {a : Nat} (h : s.Accesses (.bufRead w a)) :
    step s = s.pop.tick.hostBufRead w a := by
  simp [step_of_host h.turn, State.hostStep, State.hostAccess, h.running, h.outOfReset]

theorem step_bufWrite {s : State} {w : Width} {a : Nat} {v : Word} (h : s.Accesses (.bufWrite w a v)) :
    step s = s.pop.tick.hostBufWrite w a v := by
  simp [step_of_host h.turn, State.hostStep, State.hostAccess, h.running, h.outOfReset]

theorem regLegal_iff (w : Width) (off : BitVec 8) : regLegal w off = true ↔ w = .w32 ∧ off.toNat % 4 = 0 := by
  simp [regLegal]

theorem hostRegRead_legal (s : State) {w : Width} {off : BitVec 8} (h : regLegal w off = true) :
    s.hostRegRead w off = .next (s.respond (.data (s.readOffset off))) := by
  rw [State.hostRegRead, if_pos h]

theorem hostRegRead_illegal (s : State) {w : Width} {off : BitVec 8} (h : ¬ regLegal w off = true) :
    s.hostRegRead w off = .next ((s.respond (.readError 0)).hostFaults .busError) := by
  rw [State.hostRegRead, if_neg h]

theorem hostRegWrite_legal (s : State) {w : Width} {off : BitVec 8} {v : Word} (h : regLegal w off = true) :
    s.hostRegWrite w off v = .next ((s.writeOffset off v).respond .written) := by
  rw [State.hostRegWrite, if_pos h]

theorem hostRegWrite_illegal (s : State) {w : Width} {off : BitVec 8} {v : Word} (h : ¬ regLegal w off = true) :
    s.hostRegWrite w off v = .next ((s.respond .writeError).hostFaults .busError) := by
  rw [State.hostRegWrite, if_neg h]

theorem hostBufRead_aligned (s : State) {w : Width} {a : Nat} (ha : a < s.bufSize) (h : a % w.bytes = 0) :
    s.hostBufRead w a =
      .next ((s.useFree (s.hostReadFree a w.bytes)).respond (.data (leWord (s.hostReadBytes a w.bytes)))) := by
  rw [State.hostBufRead, if_neg (Nat.not_le.2 ha), if_pos (by simpa [bufAligned] using h)]

theorem hostBufRead_misaligned (s : State) {w : Width} {a : Nat} (ha : a < s.bufSize) (h : a % w.bytes ≠ 0) :
    s.hostBufRead w a = .next ((s.respond (.readError 0)).hostFaults .busError) := by
  rw [State.hostBufRead, if_neg (Nat.not_le.2 ha), if_neg (by simpa [bufAligned] using h)]

theorem hostBufWrite_misaligned (s : State) {w : Width} {a : Nat} {v : Word} (ha : a < s.bufSize)
    (h : a % w.bytes ≠ 0) : s.hostBufWrite w a v = .next ((s.respond .writeError).hostFaults .busError) := by
  rw [State.hostBufWrite, if_neg (Nat.not_le.2 ha), if_neg (by simpa [bufAligned] using h)]

/-- A BUF write that touches no hazard byte is stored. -/
theorem hostBufWrite_free (s : State) {w : Width} {a : Nat} {v : Word} (ha : a < s.bufSize) (h : a % w.bytes = 0)
    (hz : ∀ k, k < w.bytes → s.hazardByte (a + k) = false) :
    s.hostBufWrite w a v = .next ({ s with buf := s.buf.writeSpan a (leBytes w.bytes v) }.respond .written) := by
  rw [State.hostBufWrite, if_neg (Nat.not_le.2 ha), if_pos (by simpa [bufAligned] using h), if_neg]
  simpa using hz

/-- A BUF write that touches a hazard byte stops the machine. -/
theorem hostBufWrite_hazard (s : State) {w : Width} {a k : Nat} {v : Word} (ha : a < s.bufSize)
    (h : a % w.bytes = 0) (hk : k < w.bytes) (hz : s.hazardByte (a + k) = true) :
    s.hostBufWrite w a v = .fault .hazardWrite := by
  rw [State.hostBufWrite, if_neg (Nat.not_le.2 ha), if_pos (by simpa [bufAligned] using h), if_pos]
  simpa using ⟨k, hk, hz⟩

theorem width_bytes_le (w : Width) : w.bytes ≤ 4 := by cases w <;> decide

@[simp] theorem length_leBytes (n : Nat) (v : Word) : (leBytes n v).length = n := by simp [leBytes]

@[simp] theorem length_hostReadBytes (s : State) (a n : Nat) : (s.hostReadBytes a n).length = n := by
  simp [State.hostReadBytes]

theorem leNat_lt (bs : List Byte) : leNat bs < 2 ^ (8 * bs.length) := by
  induction bs with
  | nil => simp [leNat]
  | cons b bs ih => have := b.isLt; simp only [leNat, List.length_cons, Nat.mul_add, Nat.pow_add]; omega

theorem leNat_byte (bs : List Byte) (k : Nat) (h : k < bs.length) :
    leNat bs / 2 ^ (8 * k) % 256 = bs[k].toNat := by
  induction bs generalizing k with
  | nil => simp at h
  | cons b bs ih =>
    have := b.isLt
    cases k with
    | zero => simp [leNat]; omega
    | succ k =>
      have := ih k (by simpa using h)
      rw [show 8 * (k + 1) = 8 + 8 * k by omega, Nat.pow_add, ← Nat.div_div_eq_div_mul]
      simp only [leNat, List.getElem_cons_succ, ← this]
      congr 2; omega

/-- Byte lane k of the bus data that carries `bs`. -/
theorem leWord_byte (bs : List Byte) (k : Nat) (h : k < bs.length) (hl : bs.length ≤ 4) :
    (leWord bs).extractLsb' (8 * k) 8 = bs[k] := by
  apply BitVec.eq_of_toNat_eq
  have h1 := leNat_lt bs
  have h2 : 2 ^ (8 * bs.length) ≤ 2 ^ 32 := Nat.pow_le_pow_right (by decide) (by omega)
  rw [← leNat_byte bs k h]
  simp only [leWord, BitVec.extractLsb'_toNat, BitVec.toNat_ofNat, Nat.shiftRight_eq_div_pow]
  rw [Nat.mod_eq_of_lt (Nat.lt_of_lt_of_le h1 h2)]

/-- The bus data of an access of n bytes is below 2^(8n). -/
theorem toNat_leWord_lt (bs : List Byte) : (leWord bs).toNat < 2 ^ (8 * bs.length) := by
  simp only [leWord, BitVec.toNat_ofNat]
  exact Nat.lt_of_le_of_lt (Nat.mod_le _ _) (leNat_lt bs)

end Sys2Proof.Machine
end

