-- ==== Sys2Proof/Laws/Flags.lean ====
section
/-! SUPPORT. STATUS and CTRL bit by bit, and what a register reads after an operand was stored. -/

namespace Sys2Proof.Machine

theorem getLsbD_bitAt (i j : Nat) (b : Bool) : (bitAt i b).getLsbD j = (b && decide (j < 32) && decide (j = i)) := by
  cases b
  · simp [bitAt]
  · by_cases h : j = i
    · subst h; by_cases hj : j < 32 <;> simp [bitAt, hj]
    · by_cases hl : j < i
      · simp [bitAt, h, hl]
      · simp [bitAt, h, hl, BitVec.getLsbD_one, show ¬ j - i = 0 by omega]

/-- Every bit of STATUS as it reads (R23). -/
theorem getLsbD_statusWord (s : State) (j : Nat) : s.statusWord.getLsbD j =
    ((s.isBusy && decide (j = 0)) || (s.status.done && decide (j = 1)) || (s.status.ovr && decide (j = 2)) ||
     (s.status.rxValid && decide (j = 3)) || (decide (8 ≤ j) && s.status.err.code.getLsbD (j - 8)) ||
     (decide (12 ≤ j) && s.status.lastOp.getLsbD (j - 12))) := by
  have hc : ∀ k, 4 ≤ k → s.status.err.code.getLsbD k = false := fun k hk => BitVec.getLsbD_of_ge _ _ hk
  have hl : ∀ k, 4 ≤ k → s.status.lastOp.getLsbD k = false := fun k hk => BitVec.getLsbD_of_ge _ _ hk
  simp only [State.statusWord, BitVec.getLsbD_or, getLsbD_bitAt, BitVec.getLsbD_shiftLeft, BitVec.getLsbD_setWidth]
  by_cases h : j < 32
  · grind
  · rw [hc (j - 8) (by omega), hl (j - 12) (by omega)]
    grind

/-- Every bit of CTRL as it reads (R22). -/
theorem getLsbD_ctrlWord (c : Ctrl) (j : Nat) :
    c.toWord.getLsbD j = ((c.ie && decide (j = 0)) || (c.trace && decide (j = 1))) := by
  simp only [Ctrl.toWord, BitVec.getLsbD_or, getLsbD_bitAt]
  grind

/-- A 16-bit field reads back without the bits above it. -/
theorem zext32_setWidth (v : Word) : zext32 (v.setWidth 16) = v &&& 0x0000FFFF := by
  apply BitVec.eq_of_toNat_eq
  simp [zext32]
  rw [show (65535 : Nat) = 2 ^ 16 - 1 from rfl, Nat.and_two_pow_sub_one_eq_mod]; omega

/-- The two fields of TX_AF read back (R46). -/
theorem txAf_roundtrip (v : Word) :
    (v.extractLsb' 0 2).setWidth 32 ||| ((v.extractLsb' 8 2).setWidth 32 <<< 8) = v &&& 0x00000303 := by
  ext i hi
  have : ∀ j : Nat, j < 32 → BitVec.getLsbD (0x00000303 : Word) j = (decide (j < 2) || (decide (8 ≤ j) && decide (j < 10))) := by decide
  rw [← BitVec.getLsbD_eq_getElem, ← BitVec.getLsbD_eq_getElem]
  simp only [BitVec.getLsbD_or, BitVec.getLsbD_and, BitVec.getLsbD_setWidth, BitVec.getLsbD_extractLsb',
    BitVec.getLsbD_shiftLeft]
  rw [this i hi]
  grind

/-- What a register reads after an operand was stored: the stored value without its reserved bits in that register, and
what it read before in every other one. -/
theorem readReg_storeOperand {r : Reg} (h : r.access = .rwGated) (s : State) (v : Word) (r' : Reg) :
    (s.storeOperand v r).readReg r' = if r' = r then v &&& r.fieldMask else s.readReg r' := by
  have hv : v &&& 0xFFFFFFFF#32 = v := by
    have : (0xFFFFFFFF#32) = BitVec.allOnes 32 := by decide
    rw [this, BitVec.and_allOnes]
  cases r <;> first | (simp [Reg.access] at h; done) | skip
  all_goals cases r' <;> first
    | rfl
    | exact zext32_setWidth v
    | exact txAf_roundtrip v
    | exact hv.symm

end Sys2Proof.Machine
end

