-- ==== Sys2Proof/Laws/PerInstr.lean ====
section
/-! SUPPORT. The per-instruction statements: one lemma per constructor of Instr. -/

namespace Sys2Proof.Laws.Encoding

/-- The instruction is well formed, its word passes both checks of R91, and its word decodes to it. -/
def Statement (i : Instr) : Prop :=
  i.wellFormed = true ∧ wordValid (encode i) = true ∧ decode (encode i) = .ok i

theorem csum : Statement .csum := ⟨rfl, by decide, rfl⟩

theorem parse : Statement .parse := ⟨rfl, by decide, rfl⟩

theorem build : Statement .build := ⟨rfl, by decide, rfl⟩

end Sys2Proof.Laws.Encoding
end

