-- ==== Sys2Proof/Tests/Slice0.lean ====
section
/-! SUPPORT. Tests and witnesses. Expected values come from the spec: 30_encoding.md's words and the vectors of
95_test_vectors.md, whose labels (S1, Q1, T1, V10, ...) stand in the docstrings. A theorem test_witness_<Name> shows
concrete data that meet the hypotheses of the obligation <Name>, clause by clause where there are several. -/

namespace Sys2Proof.Tests

open Sys2Proof.Machine

/-! ### Helpers -/

/-- The state an outcome goes on with. -/
def nextOf : Host.Outcome State Fault Refusal → Option State
  | .next s => some s
  | .fault _ => none
  | .refused _ => none

/-- The fault an outcome stops with. -/
def faultOf : Host.Outcome State Fault Refusal → Option Fault
  | .next _ => none
  | .fault f => some f
  | .refused _ => none

/-- The reference frame F_ping of 95_test_vectors.md. -/
def pingFrame : List Byte :=
  [0x45, 0x00, 0x00, 0x20, 0x00, 0x01, 0x00, 0x00, 0x3F, 0x11, 0x67, 0xCA, 0x0A, 0x00, 0x00, 0x01]
  ++ [0x0A, 0x00, 0x00, 0x02, 0x30, 0x39, 0x00, 0x35, 0x00, 0x0C, 0x00, 0x00, 0x70, 0x69, 0x6E, 0x67]

/-- Reset, with these bytes at 0x10 and a CSUM span. -/
def csumState (base len : Word) : State :=
  { State.reset with
    csumOps := { base := base, len := len }
    buf := Memory.writeSpan [] 0x10 [0x01, 0x02, 0x03, 0x04, 0x05] }

/-- Reset, with a frame at 0x100 that PARSE is given `n` bytes of. -/
def parseState (frame : List Byte) (n : Word) : State :=
  { State.reset with parseOps := { base := 0x100, len := n }, buf := Memory.writeSpan [] 0x100 frame }

/-- The base inputs of 95_test_vectors.md section 2.4, with TX_CAP and PKT_ID. -/
def buildState (cap : Word) (id : Half) : State :=
  { State.reset with
    buildOps := {
      base := 0x100, cap := cap, plBase := 0x200, plLen := 4, srcAddr := 0x0A000001, srcPort := 12345
      dstAddr := 0x0A000002, dstPort := 53, srcAf := 0, dstAf := 0, pktId := id }
    buf := Memory.writeSpan (Memory.writeSpan [] 0x200 [0x70, 0x69, 0x6E, 0x67]) 0x100 (List.replicate 36 0xAA) }

/-- The state with a command of word `w` running and these events lined up before it may complete. -/
def busyWith (s : State) (w : Word) (es : List HostEvent) : State :=
  { s with phase := .busy (s.latchOf w), left := es.length, pending := es }

/-- The state with these events lined up. -/
def given (s : State) (es : List HostEvent) : State := { s with pending := es }

/-! ### Syntax, well-formedness, decoding -/

/-- The OP check refuses the word 0 (R91). -/
theorem test_wellFormed_op_refuses_zero : opAssigned 0x00000000 = false ∧ wordValid 0x00000000 = false := by decide

/-- The OP check refuses 0x4 and 0xF (R91, V15). -/
theorem test_wellFormed_op_refuses_unassigned : opAssigned 0x00000004 = false ∧ wordValid 0x0000000F = false := by decide

/-- The RSVD check refuses the words 0x13 and 0x80000001 (R90, V14). -/
theorem test_wellFormed_rsvd_refuses : rsvdZero 0x00000013 = false ∧ wordValid 0x80000001 = false := by decide

/-- CSUM is OP = 0001, RSVD = 0, bit by bit (R91). -/
theorem test_decode_csum : decode 0b00000000000000000000000000000001 = .ok .csum := rfl

/-- PARSE is OP = 0010, RSVD = 0, bit by bit (R91). -/
theorem test_decode_parse : decode 0b00000000000000000000000000000010 = .ok .parse := rfl

/-- BUILD is OP = 0011, RSVD = 0, bit by bit (R91). -/
theorem test_decode_build : decode 0b00000000000000000000000000000011 = .ok .build := rfl

/-- R92's two kinds of invalid word, by name. -/
theorem test_decode_invalid :
    decode 0x00000000 = .error .opUnassigned ∧ decode 0x0000000F = .error .opUnassigned ∧
    decode 0x00000010 = .error .opUnassigned ∧ decode 0x00000013 = .error .reservedNonzero := ⟨rfl, rfl, rfl, rfl⟩

/-! ### One step of each instruction -/

/-- S1: CSUM of 01 02 03 04 05. -/
theorem test_csum_odd_span :
    (nextOf (exec .csum (csumState 0x10 5))).map (fun t => (t.csumRes.acc, t.csumRes.result, t.statusWord)) =
      some (0x0906, 0xF6F9, 0x00001002) := by decide

/-- S7: the region check is taken without wrap-around. -/
theorem test_csum_range :
    (nextOf (exec .csum (csumState 0xFFFFFFFF 2))).map (fun t => (t.csumRes.acc, t.csumRes.result, t.statusWord)) =
      some (0, 0, 0x00001D02) := by decide

/-- Q1: PARSE of F_ping. -/
theorem test_parse_ping :
    (nextOf (exec .parse (parseState pingFrame 32))).map (fun t => (t.parseRes, t.statusWord)) =
      some ({ srcAddr := 0x0A000001, srcPort := 12345, dstAddr := 0x0A000002, dstPort := 53,
              plBase := 0x11C, plLen := 4 }, 0x0000200A) := by decide

/-- Q16: IHL 0 is accepted, and the ports are read at 0. -/
theorem test_parse_ihl_zero :
    (nextOf (exec .parse (parseState (pingFrame.set 0 0x40) 32))).map (fun t => (t.parseRes.srcPort, t.parseRes.dstPort,
      t.parseRes.plBase, t.parseRes.plLen)) = some (0x4000, 0x0020, 0x108, 24) := by decide

/-- T1: the frame is F_ping, the byte after it stays, TX_LEN and PKT_ID. -/
theorem test_build_ping :
    (nextOf (exec .build (buildState 32 1))).map (fun t => (t.buf.readSpan 0x100 32, t.buf.read 0x120, t.txLen,
      t.buildOps.pktId, t.statusWord)) = some (pingFrame, 0xAA, 32, 2, 0x00003002) := by decide

/-- T20: one byte of capacity short. -/
theorem test_build_size :
    (nextOf (exec .build (buildState 31 1))).map (fun t => (t.buf.read 0x100, t.txLen, t.buildOps.pktId,
      t.statusWord)) = some (0xAA, 0, 1, 0x00003802) := by decide

/-- V14: the word 0x13 completes with BADCMD and LAST_OP = 3. -/
theorem test_invalid_word :
    (nextOf (step (State.reset.withFetchWord 32 0x13))).map State.statusWord = some 0x00003C02 := by decide

/-! ### The register interface and the bus -/

/-- V10: BUF bytes 45 00 00 20 read as the word 0x20000045. -/
theorem test_buf_read_word :
    (nextOf (step (given (parseState pingFrame 32) [.bufRead .w32 0x100]))).map State.responses =
      some [.data 0x20000045] := by decide

/-- V11: a 16-bit write of 0xCA67 at 0x10A puts the header checksum 0x67CA in wire order, 67 then CA (R65, R116; the
vector prints the two bytes the other way round, log entry 11). -/
theorem test_buf_write_half :
    (nextOf (step (given State.reset [.bufWrite .w16 0x10A 0xCA67]))).map (fun t => t.buf.readSpan 0x10A 2) =
      some [0x67, 0xCA] := by decide

/-- V16 and V18: STATUS = 0x3C06, a write of 2 leaves 0x3C04, a write of 0xFFFFFFF9 leaves it alone. -/
theorem test_status_w1c :
    let s := { State.reset with status := { done := true, ovr := true, rxValid := false, err := .badCmd, lastOp := 3 } }
    s.statusWord = 0x00003C06 ∧ (s.writeOffset 0x08 2).statusWord = 0x00003C04 ∧
    (s.writeOffset 0x08 0xFFFFFFF9).statusWord = 0x00003C06 := by decide

/-- V1, V3 to V6: what CAPS, CTRL, PKT_ID, TX_AF and CS_RESULT read after a write. -/
theorem test_register_writes :
    State.reset.readOffset 0x00 = 0x00000010 ∧
    (State.reset.writeOffset 0x04 0xFFFFFFFF).readOffset 0x04 = 0x00000003 ∧
    (State.reset.writeOffset 0x64 0xFFFFFFFF).readOffset 0x64 = 0x0000FFFF ∧
    (State.reset.writeOffset 0x60 0xFFFFFFFF).readOffset 0x60 = 0x00000303 ∧
    (State.reset.writeOffset 0x18 0x12345678).readOffset 0x18 = 0x00000000 := by decide

/-- V19: CS_LEN written while Busy stays, and OVR is set. -/
theorem test_busy_write_is_lost :
    (nextOf (step (busyWith (csumState 0x10 5) 1 [.regWrite .w32 0x14 7]))).map (fun t => (t.csumOps.len, t.status.ovr)) =
      some (5, true) := by decide

/-- V9: a 32-bit REG read at 0x02 gets a bus error with data 0. -/
theorem test_reg_misaligned :
    (nextOf (step (given State.reset [.regRead .w32 0x02]))).map (fun t => (t.responses, t.host)) =
      some ([.readError 0], .faulted .busError) := by decide

/-- V22: irq rises with a completion when IE is 1. -/
theorem test_irq :
    let s := { csumState 0x10 5 with ctrl := { ie := true, trace := false } }
    s.irq = false ∧ (nextOf (exec .csum s)).map State.irq = some true := by decide

/-! ### Witnesses: encoding and completion -/

/-- The state after an outcome that goes on, for concrete data. -/
theorem next_of_isSome {o : Host.Outcome State Fault Refusal} (h : (nextOf o).isSome = true) : ∃ t, o = .next t := by
  cases o with
  | next t => exact ⟨t, rfl⟩
  | fault f => cases h
  | refused r => cases h

theorem test_witness_CommandWordsDecode : decode 0x00000001 = .ok .csum ∧ (0x00000003 : Word) ≠ 0x00000001 := by decide

theorem test_witness_DecodeInvertsEncode : Instr.build.wellFormed = true ∧ decode 0x00000003 = .ok .build := ⟨rfl, rfl⟩

/-- The words 0x0, 0x4, 0xF, 0x10 and 0x13 at the edges of the two tests; an Idle state; a Busy state with nothing to
come before its completion. -/
theorem test_witness_InvalidWordsCompleteWithBadCmd :
    (∀ i, decode 0x00000000 ≠ .ok i) ∧ (∀ i, decode 0x00000004 ≠ .ok i) ∧ (∀ i, decode 0x0000000F ≠ .ok i) ∧
    (∀ i, decode 0x00000010 ≠ .ok i) ∧ (∀ i, decode 0x00000013 ≠ .ok i) ∧ State.reset.phase = .idle ∧
    (busyWith State.reset 0x13 []).phase = .busy { word := 0x13, ops := .none } ∧
    (busyWith State.reset 0x13 []).left = 0 := by
  refine ⟨?_, ?_, ?_, ?_, ?_, rfl, rfl, rfl⟩ <;> intro i h <;> cases i <;> revert h <;> decide

/-- Each clause: a command about to complete, an event of the host while Idle and while Busy, nothing to do, a word of
the table. -/
theorem test_witness_StepRunsDecodedCommand :
    (∃ l, (busyWith (csumState 0x10 5) 1 []).phase = .busy l ∧ decode l.word = .ok .csum) ∧
    (given State.reset [.wait]).phase = .idle ∧ (busyWith State.reset 1 [.wait]).left ≠ 0 ∧
    State.reset.phase = .idle ∧ State.reset.pending = [] ∧ decodeTableWord 32 3 = some .build :=
  ⟨⟨_, rfl, rfl⟩, rfl, by decide, rfl, rfl, rfl⟩

/-- A command of each kind that is about to complete. -/
theorem test_witness_CompletionRecordsTheCommand :
    (busyWith (csumState 0x10 5) 1 []).turn = .engine 1 ∧
    (busyWith (parseState pingFrame 32) 2 []).turn = .engine 2 ∧ decode 2 = .ok .parse ∧
    (busyWith State.reset 0x13 []).turn = .engine 0x13 := ⟨rfl, rfl, rfl, rfl⟩

theorem test_witness_CodesEachCommandProduces :
    (∀ i, decode 0x00000000 ≠ .ok i) ∧ (busyWith State.reset 0 []).turn = .engine 0 ∧
    StatusCode.notUdp ∈ [StatusCode.ok, .range, .truncated, .notIpv4, .notUdp] := by
  refine ⟨?_, rfl, by decide⟩; intro i h; cases i <;> revert h <;> decide

/-- S6: a CSUM that leaves the buffer, with an empty span one past its end. -/
theorem test_witness_RegionCheckComesFirst :
    (nextOf (exec .csum (csumState 0x10001 0))).map (fun t => t.status.err) = some .range ∧
    (nextOf (exec .csum (csumState 0x10000 0))).map (fun t => t.status.err) = some .ok := by decide

/-! ### Witnesses: CSUM -/

/-- S3 and S6: the last span inside the buffer and the first one outside it. -/
theorem test_witness_CsumSumsItsSpan :
    (csumState 0x10000 0).csumOperands.base.toNat + (csumState 0x10000 0).csumOperands.len.toNat ≤
      (csumState 0x10000 0).bufSize ∧
    (csumState 0x10001 0).bufSize <
      (csumState 0x10001 0).csumOperands.base.toNat + (csumState 0x10001 0).csumOperands.len.toNat := by decide

/-- x = 0xFFFF for the empty input; two words in the other order. -/
theorem test_witness_InetCsumClosedForm :
    (1 ≤ 0xFFFF ∧ 0xFFFF ≤ 0xFFFF ∧ 0xFFFF % 65535 = wordSum [] % 65535) ∧
    [((1 : Byte), (2 : Byte)), (3, 4)].Perm [(3, 4), (1, 2)] := ⟨by decide, List.Perm.swap _ _ _⟩

/-- The ends of the two ranges. -/
theorem test_witness_AccumulatorStaysInRange :
    ((1 : Nat) ≤ 1 ∧ 1 ≤ 0xFFFF ∧ 0 ≤ 0xFFFF) ∧ ((1 : Nat) ≤ 0xFFFF ∧ 0xFFFF ≤ 0xFFFF) := by decide

/-- The header of F_ping with its checksum field 0, and j = 10. -/
theorem test_witness_ChecksumRoundTrip :
    let b := ((pingFrame.take 20).set 10 0).set 11 0
    b.length % 2 = 0 ∧ 10 % 2 = 0 ∧ b[10]? = some 0 ∧ b[11]? = some 0 ∧ inetCsum b = (0x9835, 0x67CA) := by decide

theorem test_witness_SeedZeroRelation : wordSum [0, 0] = 0 ∧ 0 < wordSum [0, 1] := by decide

/-! ### Witnesses: PARSE -/

/-- Q2 (the shortest frame that passes), and Q16 (IHL 0). -/
theorem test_witness_ParseExtractsEndpoints :
    (let s := parseState pingFrame 28
     s.parseOperands.base.toNat + s.parseOperands.len.toNat ≤ s.bufSize ∧ 20 ≤ s.parseOperands.len.toNat ∧
     (s.buf.read 0x100).toNat / 16 = 4 ∧ (s.buf.read 0x109).toNat = 17 ∧
     4 * ((s.buf.read 0x100).toNat % 16) + 8 ≤ s.parseOperands.len.toNat) ∧
    ((parseState (pingFrame.set 0 0x40) 32).buf.read 0x100).toNat / 16 = 4 := by decide

/-- Q7: a PARSE that fails. -/
theorem test_witness_FailedParseLeavesNoResult :
    ∃ t, exec .parse (parseState (pingFrame.set 0 0x65) 32) = .next t ∧ t.status.err ≠ .ok := ⟨_, rfl, by decide⟩

/-- Two states whose frames agree and whose buffers differ outside. -/
theorem test_witness_ParseWritesOnlyItsResults :
    let s := parseState pingFrame 32
    let s' := { s with buf := s.buf.write 0x300 0x55 }
    s.addrBits = s'.addrBits ∧ s.parseOperands = s'.parseOperands ∧
    (∀ a, inSpan s.parseOperands.base.toNat s.parseOperands.len.toNat a = true → s.buf.read a = s'.buf.read a) := by
  refine ⟨rfl, rfl, fun a ha => ?_⟩
  have h := (inSpan_iff _ _ _).1 ha
  have hb : (parseState pingFrame 32).parseOperands.base.toNat = 0x100 := rfl
  have hl : (parseState pingFrame 32).parseOperands.len.toNat = 32 := rfl
  have hne : a ≠ 0x300 := by omega
  exact (Memory.read_write_other _ _ hne).symm

/-- A frame whose checksum field is changed. -/
theorem test_witness_ParseIgnoresOtherFields :
    let s := parseState pingFrame 32
    let hlen := 4 * ((s.buf.read s.parseOperands.base.toNat).toNat % 16)
    ∀ i, i = 0 ∨ i = 9 ∨ (12 ≤ i ∧ i ≤ 19) ∨ (hlen ≤ i ∧ i ≤ hlen + 3) →
      (s.buf.write (s.parseOperands.base.toNat + 10) 0).read (s.parseOperands.base.toNat + i) =
        s.buf.read (s.parseOperands.base.toNat + i) := by
  intro s hlen i hi
  have hh : hlen = 20 := by decide
  exact Memory.read_write_other _ _ (by omega)

/-! ### Witnesses: BUILD -/

/-- T1, with exactly the capacity it needs. -/
theorem test_witness_BuildCompletesWhenChecksPass : (buildState 32 1).BuildOk :=
  ⟨by decide, by decide, by decide, by decide, by decide⟩

/-- T20: a BUILD that fails, one byte of capacity short. -/
theorem test_witness_FailedBuildChangesNothingElse :
    ∃ t, exec .build (buildState 31 1) = .next t ∧ t.status.err ≠ .ok := ⟨_, rfl, by decide⟩

/-- T1 completes with OK: the hypotheses of BuildWritesIpHeader, BuildInjectsChecksum, BuildWritesUdpHeader,
BuildLengthFieldsAgree and BuildAdvancesCounter. -/
theorem test_witness_BuildWritesIpHeader :
    ∃ t, exec .build (buildState 32 1) = .next t ∧ t.status.err = .ok := ⟨_, rfl, rfl⟩

/-- T1, at the first and the last payload byte. -/
theorem test_witness_BuildCopiesPayload :
    (∃ t, exec .build (buildState 32 1) = .next t ∧ t.status.err = .ok) ∧
    0 < (buildState 32 1).buildOperands.plLen.toNat ∧ 3 < (buildState 32 1).buildOperands.plLen.toNat :=
  ⟨⟨_, rfl, rfl⟩, by decide, by decide⟩

/-- T6, at the byte before the frame and the byte after it. -/
theorem test_witness_BuildWritesOnlyTheFrame :
    (∃ t, exec .build (buildState 33 1) = .next t ∧ t.status.err = .ok) ∧
    inSpan (buildState 33 1).buildOperands.base.toNat (28 + (buildState 33 1).buildOperands.plLen.toNat) 0xFF = false ∧
    inSpan (buildState 33 1).buildOperands.base.toNat (28 + (buildState 33 1).buildOperands.plLen.toNat) 0x120 = false :=
  ⟨⟨_, rfl, rfl⟩, by decide, by decide⟩

/-- T4 (the counter wraps) and T20 (a failure). -/
theorem test_witness_BuildAdvancesCounter :
    (nextOf (exec .build (buildState 32 0xFFFF))).map (fun t => (t.status.err, t.buildOps.pktId)) = some (.ok, 0) ∧
    (nextOf (exec .build (buildState 31 1))).map (fun t => (t.status.err, t.buildOps.pktId)) = some (.size, 1) := by
  decide

/-- T2 and T4: identifications 0 and 0xFFFF, the example's endpoints; T1 and T3 for 1 and 2. -/
theorem test_witness_IdentificationChecksumPeriod :
    (∀ id, ∃ t, exec .build (buildState 32 id) = .next t ∧ t.status.err = .ok) ∧
    (buildState 32 0).buildOperands.pktId.toNat % 65535 = (buildState 32 0xFFFF).buildOperands.pktId.toNat % 65535 ∧
    (buildState 32 0).buildOperands.srcAddr = 0x0A000001 ∧ (buildState 32 0).buildOperands.dstAddr = 0x0A000002 ∧
    (buildState 32 0).buildOperands.plLen = 4 :=
  ⟨fun _ => ⟨_, rfl, rfl⟩, by decide, rfl, rfl, rfl⟩

/-- T1, then PARSE of the frame. -/
theorem test_witness_BuildThenParseRoundTrip :
    ∃ t u : State, exec .build (buildState 32 1) = .next t ∧ t.status.err = .ok ∧ u.buf = t.buf ∧ u.addrBits = t.addrBits ∧
      u.parseOperands.base = (buildState 32 1).buildOperands.base ∧ u.parseOperands.len = t.txLen := by
  refine ⟨_, { (((buildState 32 1).writeFrame (buildState 32 1).buildOperands).complete 3 .ok) with
    parseOps := { base := 0x100, len := 32 } }, rfl, rfl, rfl, rfl, rfl, rfl⟩

/-! ### Witnesses: whole-machine rules -/

/-- A BUILD completes and the byte at 0x100 changes from AA to 45. -/
theorem test_witness_EngineWritesBufferOnlyInBuild :
    (busyWith (buildState 32 1) 3 []).turn = .engine 3 ∧
    (nextOf (step (busyWith (buildState 32 1) 3 []))).map (fun t => t.buf.read 0x100) = some 0x45 ∧
    (busyWith (buildState 32 1) 3 []).buf.read 0x100 = 0xAA := by
  refine ⟨rfl, by decide, by decide⟩

/-- For each command, two states that agree on its operands and on its bytes, and differ in the others' operands. -/
theorem test_witness_CommandsReadOnlyTheirSpans :
    (let s := csumState 0x10 5
     let s' := { s with parseOps := { base := 1, len := 2 }, buildOps := (buildState 32 1).buildOps }
     s.addrBits = s'.addrBits ∧ s.csumOperands = s'.csumOperands ∧ s.parseOperands ≠ s'.parseOperands ∧
     s.buildOperands ≠ s'.buildOperands ∧
     (∀ p ∈ s.readSpans .csum, ∀ a, inSpan p.1 p.2 a = true → s.buf.read a = s'.buf.read a)) ∧
    (let s := parseState pingFrame 32
     let s' := { s with csumOps := { base := 1, len := 2 } }
     s.addrBits = s'.addrBits ∧ s.parseOperands = s'.parseOperands ∧ s.csumOperands ≠ s'.csumOperands ∧
     (∀ p ∈ s.readSpans .parse, ∀ a, inSpan p.1 p.2 a = true → s.buf.read a = s'.buf.read a)) ∧
    (let s := buildState 32 1
     let s' := { s with csumOps := { base := 1, len := 2 } }
     s.addrBits = s'.addrBits ∧ s.buildOperands = s'.buildOperands ∧ s.csumOperands ≠ s'.csumOperands ∧
     (∀ p ∈ s.readSpans .build, ∀ a, inSpan p.1 p.2 a = true → s.buf.read a = s'.buf.read a)) :=
  ⟨⟨rfl, rfl, by decide, by decide, fun _ _ _ _ => rfl⟩, ⟨rfl, rfl, by decide, fun _ _ _ _ => rfl⟩,
   ⟨rfl, rfl, by decide, fun _ _ _ _ => rfl⟩⟩

/-- R22, R62: IE reads in bit 0 and TRACE in bit 1 of CTRL. -/
theorem test_ctrl_bits :
    ({ State.reset with ctrl := { ie := true, trace := false } } : State).readOffset 0x04 = 0x00000001 ∧
    ({ State.reset with ctrl := { ie := false, trace := true } } : State).readOffset 0x04 = 0x00000002 := by decide

/-- Log entry 16: the byte of an 8-bit BUF write comes from bits [7:0], and an 8-bit read answers it there, with 0 above. -/
theorem test_buf_byte_lane :
    (nextOf (step (given State.reset [.bufWrite .w8 0x21 0xFFFFFF5A]))).map (fun t => t.buf.read 0x21) = some 0x5A ∧
    (nextOf (step (given (csumState 0x10 5) [.bufRead .w8 0x13]))).map State.responses = some [.data 0x00000004] := by decide

/-- V8: the first and the last unmapped offset. -/
theorem test_witness_UnmappedOffsetsAreInert :
    (0x6C ≤ (0x6C : BitVec 8).toNat ∧ (0x6C : BitVec 8).toNat ≤ 0xFC ∧ (0x6C : BitVec 8).toNat % 4 = 0) ∧
    (0x6C ≤ (0xFC : BitVec 8).toNat ∧ (0xFC : BitVec 8).toNat ≤ 0xFC ∧ (0xFC : BitVec 8).toNat % 4 = 0) := by decide

theorem test_witness_ReservedBitsReadZero : Reg.txAf ≠ .cmd ∧ (0x00000010 : Word).extractLsb' 4 28 ≠ 0 := by decide

theorem test_witness_CapsIsFixed : ∃ t, step State.reset = .next t := ⟨_, rfl⟩

/-- CAPS at 0x00, CMD at 0x0C, the first unmapped offset 0x6C. -/
theorem test_witness_LegalRegReadReturnsRegister :
    (given State.reset [.regRead .w32 0x00]).Accesses (.regRead .w32 0x00) ∧
    (given State.reset [.regRead .w32 0x0C]).Accesses (.regRead .w32 0x0C) ∧
    (given State.reset [.regRead .w32 0x6C]).Accesses (.regRead .w32 0x6C) ∧
    (0x6C : BitVec 8).toNat % 4 = 0 ∧ (0x00 : BitVec 8) = Reg.caps.offset ∧ (∀ r : Reg, (0x6C : BitVec 8) ≠ r.offset) :=
  ⟨⟨rfl, rfl, rfl⟩, ⟨rfl, rfl, rfl⟩, ⟨rfl, rfl, rfl⟩, by decide, rfl, fun r => by cases r <;> decide⟩

/-- Each access code, Idle and Busy: CTRL, STATUS, CS_RESULT, CMD, CS_BASE, PKT_ID, and an unmapped offset. -/
theorem test_witness_LegalRegWriteByAccess :
    (∀ off v, (given State.reset [.regWrite .w32 off v]).Accesses (.regWrite .w32 off v)) ∧
    (∀ off v, (busyWith State.reset 1 [.regWrite .w32 off v]).Accesses (.regWrite .w32 off v)) ∧
    (given State.reset [.regWrite .w32 0x0C 1]).isBusy = false ∧
    (busyWith State.reset 1 [.regWrite .w32 0x0C 1]).isBusy = true ∧
    Reg.csResult.access = .ro ∧ Reg.cmd.access = .wo ∧ Reg.csBase.access = .rwGated ∧ Reg.pktId.access = .rwGated ∧
    (∀ r : Reg, (0x6C : BitVec 8) ≠ r.offset) :=
  ⟨fun _ _ => ⟨rfl, rfl, rfl⟩, fun _ _ => ⟨rfl, rfl, rfl⟩, rfl, rfl, rfl, rfl, rfl, rfl, fun r => by cases r <;> decide⟩

/-- V9 and V12: a narrow REG read, a REG write at 0x02, a 16-bit BUF read at 0x101, a 32-bit BUF write at the last
misaligned address. -/
theorem test_witness_BusErrorsChangeNothing :
    (given State.reset [.regRead .w8 0x00]).Accesses (.regRead .w8 0x00) ∧ Width.w8 ≠ .w32 ∧
    (given State.reset [.regWrite .w32 0x02 1]).Accesses (.regWrite .w32 0x02 1) ∧ (0x02 : BitVec 8).toNat % 4 ≠ 0 ∧
    (given State.reset [.bufRead .w16 0x101]).Accesses (.bufRead .w16 0x101) ∧ 0x101 < State.reset.bufSize ∧
    0x101 % Width.w16.bytes ≠ 0 ∧
    (given State.reset [.bufWrite .w32 0xFFFF 1]).Accesses (.bufWrite .w32 0xFFFF 1) ∧ 0xFFFF < State.reset.bufSize ∧
    0xFFFF % Width.w32.bytes ≠ 0 :=
  ⟨⟨rfl, rfl, rfl⟩, by decide, ⟨rfl, rfl, rfl⟩, by decide, ⟨rfl, rfl, rfl⟩, by decide, by decide, ⟨rfl, rfl, rfl⟩,
   by decide, by decide⟩

/-- The last word of the buffer, read while Idle; a word outside a running BUILD's output span. -/
theorem test_witness_BufReadLanes :
    (given State.reset [.bufRead .w32 0xFFFC]).Accesses (.bufRead .w32 0xFFFC) ∧ 0xFFFC < State.reset.bufSize ∧
    0xFFFC % Width.w32.bytes = 0 ∧
    (∀ k, k < Width.w32.bytes → (given State.reset [.bufRead .w32 0xFFFC]).outputByte (0xFFFC + k) = false) ∧
    (∀ k, k < Width.w32.bytes →
      (busyWith (buildState 32 1) 3 [.bufRead .w32 0x120]).outputByte (0x120 + k) = false) :=
  ⟨⟨rfl, rfl, rfl⟩, by decide, by decide, fun _ _ => rfl, by decide⟩

/-- The last word of the buffer, written while Idle; the word after a running BUILD's output span. -/
theorem test_witness_BufWriteLanes :
    (given State.reset [.bufWrite .w32 0xFFFC 1]).Accesses (.bufWrite .w32 0xFFFC 1) ∧ 0xFFFC < State.reset.bufSize ∧
    0xFFFC % Width.w32.bytes = 0 ∧
    (∀ k, k < Width.w32.bytes → (given State.reset [.bufWrite .w32 0xFFFC 1]).hazardByte (0xFFFC + k) = false) ∧
    (∀ k, k < Width.w32.bytes →
      (busyWith (buildState 32 1) 3 [.bufWrite .w32 0x120 1]).hazardByte (0x120 + k) = false) :=
  ⟨⟨rfl, rfl, rfl⟩, by decide, by decide, fun _ _ => rfl, by decide⟩

/-- A read of the first and of the last byte of a running BUILD's output span. -/
theorem test_witness_BusyReadOfOutputSpanIsFree :
    let s := busyWith (buildState 33 1) 3 [.bufRead .w8 0x100]
    s.Accesses (.bufRead .w8 0x100) ∧ 0x100 < s.bufSize ∧ 0x100 % Width.w8.bytes = 0 ∧
    (∃ o, s.phase = .busy { word := 3, ops := .build o } ∧
      (∃ k, k < Width.w8.bytes ∧ o.base.toNat ≤ 0x100 + k ∧ 0x100 + k < o.base.toNat + o.cap.toNat) ∧
      (∃ k, k < Width.w8.bytes ∧ o.base.toNat ≤ 0x120 + k ∧ 0x120 + k < o.base.toNat + o.cap.toNat)) :=
  ⟨⟨rfl, rfl, rfl⟩, by decide, by decide, ⟨_, rfl, ⟨0, by decide⟩, ⟨0, by decide⟩⟩⟩

/-- Writes at the last byte of a running CSUM's span (a hazard) and at the byte after it (none). -/
theorem test_witness_HazardWriteFaults :
    (∀ a v, (busyWith (csumState 0x10 5) 1 [.bufWrite .w8 a v]).Accesses (.bufWrite .w8 a v)) ∧
    0x15 < (csumState 0x10 5).bufSize ∧ 0x15 % Width.w8.bytes = 0 ∧
    faultOf (step (busyWith (csumState 0x10 5) 1 [.bufWrite .w8 0x14 0])) = some .hazardWrite ∧
    faultOf (step (busyWith (csumState 0x10 5) 1 [.bufWrite .w8 0x15 0])) = none ∧
    faultOf (step (busyWith (parseState pingFrame 32) 2 [.bufWrite .w8 0x11F 0])) = some .hazardWrite ∧
    faultOf (step (busyWith (buildState 33 1) 3 [.bufWrite .w8 0x203 0])) = some .hazardWrite ∧
    faultOf (step (busyWith (buildState 33 1) 3 [.bufWrite .w8 0x120 0])) = some .hazardWrite ∧
    faultOf (step (busyWith (buildState 33 1) 3 [.bufWrite .w8 0x121 0])) = none :=
  ⟨fun _ _ => ⟨rfl, rfl, rfl⟩, by decide, by decide, by decide, by decide, by decide, by decide, by decide, by decide⟩

/-! ### Witnesses: host and engine -/

/-- A state in which a CSUM runs meets the invariant. -/
theorem test_inv_busy (es : List HostEvent) : (busyWith (csumState 0x10 5) 1 es).Inv where
  bufSorted := by rfl
  bufInside := by
    have h : ∀ c ∈ (csumState 0x10 5).buf, c.1 < (csumState 0x10 5).bufSize := by decide
    exact h
  latchCopies := by rintro l ⟨⟩; rfl
  busyNotDone := fun _ => rfl
  resetHeld := fun h => by cases h
  checksumPair := .inl rfl
  parseCleared := fun _ => rfl
  viewInside := Nat.zero_le _
  txLenRange := .inl rfl
  errOfLastOp := by
    have h : StatusCode.ok ∈ codesOf 0 := by decide
    exact h

/-- V21: CTRL is written while a CSUM runs. -/
theorem test_witness_HostCannotChangeRunningCommand :
    let s := busyWith (csumState 0x10 5) 1 [.regWrite .w32 0x04 1]
    s.Inv ∧ (∃ l, s.phase = .busy l ∧ decode l.word = .ok .csum) ∧ s.turn = .host (.regWrite .w32 0x04 1) ∧
    HostEvent.regWrite .w32 0x04 1 ≠ .resetAssert ∧ ∃ t, step s = .next t :=
  ⟨test_inv_busy _, ⟨_, rfl, rfl⟩, rfl, by decide, ⟨_, rfl⟩⟩

/-- V19: CS_LEN is written while a CSUM runs. -/
theorem test_witness_ResultsHoldUntilCompletion :
    let s := busyWith (csumState 0x10 5) 1 [.regWrite .w32 0x14 7]
    s.isBusy = true ∧ s.turn = .host (.regWrite .w32 0x14 7) ∧ HostEvent.regWrite .w32 0x14 7 ≠ .resetAssert ∧
    ∃ t, step s = .next t := ⟨rfl, rfl, by decide, ⟨_, rfl⟩⟩

/-- PKT_ID changes by a BUILD, by a host write and by reset. -/
theorem test_witness_PktIdChangesOnlyByHostOrBuild :
    (nextOf (step (busyWith (buildState 32 1) 3 []))).map (fun t => t.buildOps.pktId) = some 2 ∧
    (nextOf (step (given (buildState 32 1) [.regWrite .w32 0x64 9]))).map (fun t => t.buildOps.pktId) = some 9 ∧
    (nextOf (step (given (buildState 32 1) [.resetAssert]))).map (fun t => t.buildOps.pktId) = some 0 := by decide

/-- A PARSE that sets ERR's neighbour RX_VALID and LAST_OP; its turn is no reset. -/
theorem test_witness_StatusReportChangesOnlyAtCompletion :
    let s := busyWith (parseState pingFrame 32) 2 []
    s.turn ≠ .host .resetAssert ∧
    (nextOf (step s)).map (fun t => (t.status.lastOp, t.status.rxValid)) = some (2, true) ∧
    s.status.lastOp = 0 ∧ s.status.rxValid = false := by
  refine ⟨by decide, by decide, rfl, rfl⟩

/-- DONE rises with a completion and falls with an accepted CMD write and with a write of STATUS; OVR rises with a lost
write and falls with a write of STATUS. -/
theorem test_witness_DoneAndOverrunLifecycle :
    let s := { State.reset with status := { State.reset.status with done := true, ovr := true } }
    (nextOf (step (busyWith State.reset 1 []))).map (fun t => t.status.done) = some true ∧
    (nextOf (step (given s [.regWrite .w32 0x0C 1]))).map (fun t => t.status.done) = some false ∧
    (nextOf (step (given s [.regWrite .w32 0x08 2]))).map (fun t => t.status.done) = some false ∧
    (nextOf (step (busyWith State.reset 1 [.regWrite .w32 0x14 7]))).map (fun t => t.status.ovr) = some true ∧
    (nextOf (step (given s [.regWrite .w32 0x08 4]))).map (fun t => t.status.ovr) = some false := by decide

/-- Reset while a BUILD runs; an access while reset is asserted; the release. -/
theorem test_witness_ResetClearsRegisters :
    (busyWith (buildState 32 1) 3 [.resetAssert]).turn = .host .resetAssert ∧
    (given { State.reset with inReset := true } [.regRead .w32 0x00]).turn = .host (.regRead .w32 0x00) ∧
    (given { State.reset with inReset := true } [.resetRelease]).turn = .host .resetRelease := ⟨rfl, rfl, rfl⟩

/-- V25: reset while the BUILD of T1 runs; the bytes 0xFF and 0x120 are outside its frame span, 0x100 is inside. -/
theorem test_witness_ResetKeepsBuffer :
    let s := busyWith (buildState 33 1) 3 [.resetAssert]
    s.turn = .host .resetAssert ∧ (nextOf (step s)).map (fun t => (t.buf.read 0x120, t.buf.read 0x203)) =
      some (0xAA, 0x67) ∧
    (nextOf (step s)).map (fun t => t.buf.read 0x100) = some (Config.freeByte 0) := by
  refine ⟨rfl, by rfl, by rfl⟩

/-- A CSUM completes: its turn reads no CTRL. -/
theorem test_witness_TraceHasNoEffect :
    (∃ t, step (busyWith (csumState 0x10 5) 1 []) = .next t) ∧
    (∀ w, (busyWith (csumState 0x10 5) 1 []).turn ≠ .host (.regRead w 0x04)) := ⟨⟨_, rfl⟩, fun w => by cases w <;> decide⟩

/-- A CSUM with a polling loop lined up. -/
theorem test_witness_EveryRunningCommandCompletes :
    (∃ l, (busyWith (csumState 0x10 5) 1 [.wait]).phase = .busy l) ∧
    HostEvent.resetAssert ∉ (busyWith (csumState 0x10 5) 1 [.wait]).pending := ⟨⟨_, rfl⟩, by decide⟩

/-- Both faults arise: a hazard write, a BUF read and a BUF write at the first address past the buffer. -/
theorem test_witness_StopsOnlyOnHostErrors :
    faultOf (step (busyWith (csumState 0x10 5) 1 [.bufWrite .w8 0x10 0])) = some .hazardWrite ∧
    faultOf (step (given State.reset [.bufRead .w8 0x10000])) = some .noSuchAddress ∧
    faultOf (step (given State.reset [.bufWrite .w8 0x10000 0])) = some .noSuchAddress := by decide

/-- The first and the last byte of the buffer written before power-on. -/
theorem test_witness_InvariantAtPowerOn :
    Memory.wf [(0, 0x55), (0xFFFF, 0xAA)] = true ∧
    (∀ c ∈ ([(0, 0x55), (0xFFFF, 0xAA)] : Memory), c.1 < 2 ^ Config.referenceAddrBits.val) := by decide

/-- A Busy state that meets the invariant and steps. -/
theorem test_witness_StepKeepsInvariant :
    (busyWith (csumState 0x10 5) 1 []).Inv ∧ ∃ t, step (busyWith (csumState 0x10 5) 1 []) = .next t :=
  ⟨test_inv_busy [], ⟨_, rfl⟩⟩

/-- From power-on with a CMD write lined up, one step reaches a Busy state. -/
theorem test_witness_LatchedCopyEqualsRegisters :
    let s := State.powerOn Config.referenceAddrBits [] [.regWrite .w32 0x0C 1] [3]
    ∃ t, Reaches s t ∧ t.isBusy = true := ⟨_, .step (.refl _) rfl, rfl⟩

end Sys2Proof.Tests
end

section
/-! PROOF. The register file of 10_state.md: the reserved bits (R50), CAPS (R21), the unmapped offsets (R49) and the
write-one-to-clear of STATUS (R24). -/

namespace Sys2Proof.Machine

/-! ### Reserved bits -/

/-- No bit is left outside a mask that covers every 1 bit of the word. -/
theorem and_not_mask_eq_zero {x m : Word} (h : ∀ j < 32, x.getLsbD j = true → m.getLsbD j = true) :
    x &&& ~~~m = 0 := by
  refine BitVec.eq_of_getLsbD_eq fun j hj => ?_
  simpa [hj] using h j hj

/-- A word below 2^k has no bit outside the mask of the low k bits. -/
theorem and_not_lowMask_eq_zero (k : Nat) {x : Word} (h : x.toNat < 2 ^ k) :
    x &&& ~~~BitVec.ofNat 32 (2 ^ k - 1) = 0 := by
  apply and_not_mask_eq_zero
  intro j hj hx
  have hjk : j < k := by
    by_contra hkj
    have hlt : x.toNat < 2 ^ j := Nat.lt_of_lt_of_le h (Nat.pow_le_pow_right (by decide) (Nat.le_of_not_lt hkj))
    simp [BitVec.getLsbD, Nat.testBit_lt_two_pow hlt] at hx
  simp [BitVec.getLsbD_ofNat, hj, hjk]

theorem toNat_zext32_lt (v : Half) : (zext32 v).toNat < 2 ^ 16 := by
  have := v.isLt
  simp only [zext32, BitVec.toNat_setWidth]
  omega

theorem toNat_ctrlWord_lt (c : Ctrl) : c.toWord.toNat < 2 ^ 2 := by
  obtain ⟨ie, trace⟩ := c
  cases ie <;> cases trace <;> decide

theorem toNat_capsWord (s : State) : (s.readReg .caps).toNat = s.addrBits.val := by
  have := s.addrBits.le_24
  simp only [State.readReg, BitVec.toNat_ofNat]
  omega

theorem toNat_capsWord_lt (s : State) : (s.readReg .caps).toNat < 2 ^ 8 := by
  have := s.addrBits.le_24
  rw [toNat_capsWord]
  omega

theorem getLsbD_statusMask : ∀ j < 32,
    (Reg.fieldMask .status).getLsbD j = (decide (j < 4) || (decide (8 ≤ j) && decide (j < 16))) := by decide

theorem getLsbD_txAfMask : ∀ j < 32,
    (Reg.fieldMask .txAf).getLsbD j = (decide (j < 2) || (decide (8 ≤ j) && decide (j < 10))) := by decide

/-- STATUS reads 0 outside bits [15:8] and [3:0] (R23). -/
theorem statusWord_and_not_mask (s : State) : s.statusWord &&& ~~~Reg.fieldMask .status = 0 := by
  refine and_not_mask_eq_zero fun j hj hx => ?_
  have hc : 12 ≤ j → s.status.err.code.getLsbD (j - 8) = false := fun h => BitVec.getLsbD_of_ge _ _ (by omega)
  have hl : 16 ≤ j → s.status.lastOp.getLsbD (j - 12) = false := fun h => BitVec.getLsbD_of_ge _ _ (by omega)
  rw [getLsbD_statusWord] at hx
  rw [getLsbD_statusMask j hj]
  grind

/-- TX_AF reads 0 outside bits [9:8] and [1:0] (R46). -/
theorem txAfWord_and_not_mask (s : State) : s.readReg .txAf &&& ~~~Reg.fieldMask .txAf = 0 := by
  refine and_not_mask_eq_zero fun j hj hx => ?_
  have hs : 2 ≤ j → s.buildOps.srcAf.getLsbD j = false := fun h => BitVec.getLsbD_of_ge _ _ h
  have hd : 10 ≤ j → s.buildOps.dstAf.getLsbD (j - 8) = false := fun h => BitVec.getLsbD_of_ge _ _ (by omega)
  simp only [State.readReg, BitVec.getLsbD_or, BitVec.getLsbD_setWidth, BitVec.getLsbD_shiftLeft] at hx
  rw [getLsbD_txAfMask j hj]
  grind

/-- A reserved bit reads 0 in every register. -/
theorem readReg_and_not_fieldMask (s : State) (r : Reg) : s.readReg r &&& ~~~r.fieldMask = 0 := by
  cases r with
  | caps => exact and_not_lowMask_eq_zero 8 (toNat_capsWord_lt s)
  | ctrl => exact and_not_lowMask_eq_zero 2 (toNat_ctrlWord_lt s.ctrl)
  | status => exact statusWord_and_not_mask s
  | txAf => exact txAfWord_and_not_mask s
  | csResult | csAcc | rxSrcPort | rxDstPort | txSrcPort | txDstPort | pktId =>
    exact and_not_lowMask_eq_zero 16 (toNat_zext32_lt _)
  | cmd | csBase | csLen | rxBase | rxLen | rxSrcAddr | rxDstAddr | rxPlBase | rxPlLen | txBase | txCap | txPlBase
  | txPlLen | txSrcAddr | txDstAddr | txLen => exact and_not_lowMask_eq_zero 32 (BitVec.isLt _)

/-- Masking keeps the 16 bits of a port or of PKT_ID. -/
theorem setWidth_and_halfMask (v : Word) : (v &&& 0x0000FFFF).setWidth 16 = v.setWidth 16 := by
  rw [BitVec.setWidth_and]; exact BitVec.and_allOnes

/-- Masking keeps the two fields of TX_AF. -/
theorem extractSrcAf_and_mask (v : Word) : (v &&& Reg.fieldMask .txAf).extractLsb' 0 2 = v.extractLsb' 0 2 := by
  rw [BitVec.extractLsb'_and]; exact BitVec.and_allOnes

theorem extractDstAf_and_mask (v : Word) : (v &&& Reg.fieldMask .txAf).extractLsb' 8 2 = v.extractLsb' 8 2 := by
  rw [BitVec.extractLsb'_and]; exact BitVec.and_allOnes

theorem and_wordMask (v : Word) : v &&& 0xFFFFFFFF = v := BitVec.and_allOnes

theorem ctrlOfWord_and_mask (v : Word) : Ctrl.ofWord (v &&& Reg.fieldMask .ctrl) = Ctrl.ofWord v := by
  simp [Ctrl.ofWord, Reg.fieldMask]

theorem writeStatus_and_mask (s : State) (v : Word) :
    s.writeStatus (v &&& Reg.fieldMask .status) = s.writeStatus v := by
  simp [State.writeStatus, Reg.fieldMask]

/-- Storing an operand discards the value's reserved bits. -/
theorem storeOperand_and_fieldMask (s : State) (v : Word) (r : Reg) :
    s.storeOperand (v &&& r.fieldMask) r = s.storeOperand v r := by
  cases r with
  | txAf => simp only [State.storeOperand, extractSrcAf_and_mask, extractDstAf_and_mask]
  | txSrcPort | txDstPort | pktId => simp only [State.storeOperand, Reg.fieldMask, setWidth_and_halfMask]
  | csBase | csLen | rxBase | rxLen | txBase | txCap | txPlBase | txPlLen | txSrcAddr | txDstAddr =>
    simp only [State.storeOperand, Reg.fieldMask, and_wordMask]
  | caps | ctrl | status | cmd | csResult | csAcc | rxSrcAddr | rxSrcPort | rxDstAddr | rxDstPort | rxPlBase | rxPlLen
  | txLen => rfl

theorem eq_ctrl_of_access_rw {r : Reg} (h : r.access = .rw) : r = .ctrl := by
  cases r with
  | ctrl => rfl
  | _ => cases h

theorem eq_status_of_access_w1c {r : Reg} (h : r.access = .w1c) : r = .status := by
  cases r with
  | status => rfl
  | _ => cases h

theorem eq_cmd_of_access_wo {r : Reg} (h : r.access = .wo) : r = .cmd := by
  cases r with
  | cmd => rfl
  | _ => cases h

theorem writeReg_ctrl (s : State) (v : Word) : s.writeReg v .ctrl = { s with ctrl := Ctrl.ofWord v } := rfl

theorem writeReg_status (s : State) (v : Word) : s.writeReg v .status = s.writeStatus v := rfl

/-- A write of any register but CMD discards the value's reserved bits. -/
theorem writeReg_and_fieldMask (s : State) (v : Word) {r : Reg} (h : r ≠ .cmd) :
    s.writeReg (v &&& r.fieldMask) r = s.writeReg v r := by
  cases ha : r.access with
  | ro => rw [writeReg_ro ha, writeReg_ro ha]
  | rw =>
    obtain rfl := eq_ctrl_of_access_rw ha
    rw [writeReg_ctrl, writeReg_ctrl, ctrlOfWord_and_mask]
  | w1c =>
    obtain rfl := eq_status_of_access_w1c ha
    rw [writeReg_status, writeReg_status, writeStatus_and_mask]
  | wo => exact absurd (eq_cmd_of_access_wo ha) h
  | rwGated =>
    cases hb : s.isBusy with
    | true => rw [writeReg_busy (.inr ha) hb, writeReg_busy (.inr ha) hb]
    | false => rw [writeReg_operand_idle ha hb, writeReg_operand_idle ha hb, storeOperand_and_fieldMask]

/-- A word with a reserved bit set is no command's word (R92). -/
theorem decode_ne_ok_of_reserved {w : Word} (h : w.extractLsb' 4 28 ≠ 0) (i : Instr) : decode w ≠ .ok i := by
  intro hd
  obtain rfl := (decode_eq_ok_iff w i).1 hd
  cases i <;> exact h rfl

/-- Settles O37: the masks are R50's, every register reads 0 outside its mask and stores only what is inside it, and
CMD's reserved bits make the word invalid. -/
theorem reservedBitsReadZero : Obligations.ReservedBitsReadZero :=
  ⟨⟨rfl, rfl, rfl, rfl, by decide, by decide⟩, readReg_and_not_fieldMask,
   fun s v _ h => (writeReg_and_fieldMask s v h).symm, fun _ => decode_ne_ok_of_reserved⟩

/-! ### CAPS -/

theorem readOffset_caps (s : State) : s.readOffset 0x00 = s.readReg .caps := readOffset_offset s .caps

theorem capsWord_low (s : State) : (s.readReg .caps).extractLsb' 0 8 = BitVec.ofNat 8 s.addrBits.val := by
  apply BitVec.eq_of_toNat_eq
  rw [BitVec.extractLsb'_toNat, toNat_capsWord, BitVec.toNat_ofNat, Nat.shiftRight_zero]

theorem capsWord_high (s : State) : (s.readReg .caps).extractLsb' 8 24 = 0 := by
  apply BitVec.eq_of_toNat_eq
  rw [BitVec.extractLsb'_toNat, Nat.shiftRight_eq_div_pow, Nat.div_eq_of_lt (toNat_capsWord_lt s)]
  rfl

/-- CAPS reads the same in two states of one configuration. -/
theorem capsWord_congr {s t : State} (h : t.addrBits = s.addrBits) : t.readReg .caps = s.readReg .caps := by
  simp only [State.readReg, h]

/-- Settles O38: CAPS reads a field that no step changes, and it is read-only. -/
theorem capsIsFixed : Obligations.CapsIsFixed := by
  refine ⟨fun s => ?_, fun s t h => ?_, fun s v => ?_⟩
  · rw [readOffset_caps]
    exact ⟨capsWord_low s, capsWord_high s⟩
  · rw [readOffset_caps, readOffset_caps]
    exact capsWord_congr (step_addrBits h)
  · exact (writeOffset_offset s v .caps).trans (writeReg_ro rfl)

/-! ### Unmapped offsets -/

/-- The registers lie at offsets 0x00 to 0x68 (R20). -/
theorem offset_le (r : Reg) : r.offset.toNat ≤ 0x68 := by cases r <;> decide

/-- Settles O35: no register lies at 0x6C or above. -/
theorem unmappedOffsetsAreInert : Obligations.UnmappedOffsetsAreInert := by
  intro s off v hlow _ _
  have hun : ∀ r : Reg, off ≠ r.offset := by
    rintro r rfl
    have := offset_le r
    omega
  exact ⟨readOffset_unmapped hun, writeOffset_unmapped hun⟩

/-! ### STATUS -/

/-- A bit cleared by writing 1 (R24). -/
theorem ite_clear (b d : Bool) : (if b = true then false else d) = (d && !b) := by cases b <;> simp

/-- Settles O39: the STATUS write asks for no phase, and clears DONE and OVR bit by bit. -/
theorem statusWriteOneToClear : Obligations.StatusWriteOneToClear := by
  intro s w
  have hw : s.writeOffset 0x08 w = s.writeStatus w := writeOffset_offset s w .status
  rw [hw, State.writeStatus, ite_clear, ite_clear]

end Sys2Proof.Machine
end

section
/-! PROOF. The memory map of 20_memory.md: the region check (R70), the engine's buffer writes (R72), and what a legal
read (R62) and a legal write (R63) of the REG aperture do. -/

namespace Sys2Proof.Machine

/-! ### The region check -/

/-- A span the command names leaves the buffer (R70). -/
def State.NamesOutside (s : State) (i : Instr) : Prop := ∃ p ∈ s.namedSpans i, s.bufSize < p.1 + p.2

theorem namesOutside_csum_iff (s : State) :
    s.NamesOutside .csum ↔ s.bufSize < s.csumOperands.base.toNat + s.csumOperands.len.toNat := by
  simp [State.NamesOutside, State.namedSpans]

theorem namesOutside_parse_iff (s : State) :
    s.NamesOutside .parse ↔ s.bufSize < s.parseOperands.base.toNat + s.parseOperands.len.toNat := by
  simp [State.NamesOutside, State.namedSpans]

theorem namesOutside_build_iff (s : State) :
    s.NamesOutside .build ↔ s.bufSize < s.buildOperands.base.toNat + s.buildOperands.cap.toNat ∨
      s.bufSize < s.buildOperands.plBase.toNat + s.buildOperands.plLen.toNat := by
  simp [State.NamesOutside, State.namedSpans]

/-- The named spans are the operands', whatever the buffer holds. -/
theorem namesOutside_withBuf (s : State) (i : Instr) (m : Memory) :
    State.NamesOutside { s with buf := m } i ↔ s.NamesOutside i := by
  cases i <;> exact Iff.rfl

/-- What a command that fails its region check leaves: its results cleared, and RANGE (R113, R141, R168). -/
def State.rangeOutcome (s : State) : Instr → State
  | .csum => (s.setCsum 0 0).complete 1 .range
  | .parse => (s.setParse parseCleared false).complete 2 .range
  | .build => (s.setTxLen 0).complete 3 .range

theorem rangeOutcome_err (s : State) (i : Instr) : (s.rangeOutcome i).status.err = .range := by cases i <;> rfl

theorem rangeOutcome_buf (s : State) (i : Instr) : (s.rangeOutcome i).buf = s.buf := by cases i <;> rfl

theorem rangeOutcome_withBuf (s : State) (i : Instr) (m : Memory) :
    State.rangeOutcome { s with buf := m } i = { s.rangeOutcome i with buf := m } := by cases i <;> rfl

theorem exec_outside {s : State} {i : Instr} (h : s.NamesOutside i) : exec i s = .next (s.rangeOutcome i) := by
  cases i with
  | csum => exact exec_csum_range ((namesOutside_csum_iff s).1 h)
  | parse => exact exec_parse_fail ((parseFailure_range_iff s _).2 ((namesOutside_parse_iff s).1 h))
  | build => exact exec_build_fail ((buildFailure_range_iff s _).2 ((namesOutside_build_iff s).1 h))

/-- A command has one outcome. -/
theorem exec_next_unique {s t u : State} {i : Instr} (ht : exec i s = .next t) (hu : exec i s = .next u) : t = u :=
  Host.Outcome.next.inj (ht.symm.trans hu)

/-- RANGE comes from the region check alone. -/
theorem namesOutside_of_err_range {s t : State} {i : Instr} (h : exec i s = .next t) (he : t.status.err = .range) :
    s.NamesOutside i := by
  cases i with
  | csum =>
    obtain ⟨-, hx⟩ | ⟨hout, -⟩ := exec_csum_cases s
    · obtain rfl := exec_next_unique h hx; cases he
    · exact (namesOutside_csum_iff s).2 hout
  | parse =>
    obtain ⟨-, hx⟩ | ⟨c, hc, hx⟩ := exec_parse_cases s <;> obtain rfl := exec_next_unique h hx
    · cases he
    · obtain rfl : c = .range := he
      exact (namesOutside_parse_iff s).2 ((parseFailure_range_iff s _).1 hc)
  | build =>
    obtain ⟨-, hx⟩ | ⟨c, hc, hx⟩ := exec_build_cases s <;> obtain rfl := exec_next_unique h hx
    · cases he
    · obtain rfl : c = .range := he
      exact (namesOutside_build_iff s).2 ((buildFailure_range_iff s _).1 hc)

/-- Settles O8: a failed region check has one outcome, which no buffer byte enters, and nothing else gives RANGE. -/
theorem regionCheckComesFirst : Obligations.RegionCheckComesFirst := by
  refine ⟨fun i s => ?_, fun s base => spanInBuf_iff s base 0⟩
  obtain ⟨t, ht, -⟩ := exec_completes i s
  refine ⟨t, ht, ⟨namesOutside_of_err_range ht, fun hout => ?_⟩, fun he => ?_⟩
  · obtain rfl := exec_next_unique ht (exec_outside hout)
    exact rangeOutcome_err s i
  · have hout := namesOutside_of_err_range ht he
    obtain rfl := exec_next_unique ht (exec_outside hout)
    refine ⟨rangeOutcome_buf s i, fun m => ?_⟩
    rw [← rangeOutcome_withBuf]
    exact exec_outside ((namesOutside_withBuf s i m).2 hout)

/-! ### The engine's writes of the buffer -/

/-- A command leaves the buffer as it is, or it is a BUILD that completes with OK and writes its frame. -/
theorem exec_buf_cases {s t : State} {i : Instr} (h : exec i s = .next t) :
    t.buf = s.buf ∨ (i = .build ∧ t.status.err = .ok ∧
      t.buf = s.buf.writeSpan s.buildOperands.base.toNat
        (s.buildOperands.frame (s.buf.readSpan s.buildOperands.plBase.toNat s.buildOperands.plLen.toNat))) := by
  cases i with
  | csum =>
    obtain ⟨-, hx⟩ | ⟨-, hx⟩ := exec_csum_cases s <;> obtain rfl := exec_next_unique h hx <;> exact .inl rfl
  | parse =>
    obtain ⟨-, hx⟩ | ⟨c, -, hx⟩ := exec_parse_cases s <;> obtain rfl := exec_next_unique h hx <;> exact .inl rfl
  | build =>
    obtain ⟨-, hx⟩ | ⟨c, -, hx⟩ := exec_build_cases s <;> obtain rfl := exec_next_unique h hx
    · exact .inr ⟨rfl, rfl, (State.complete_buf _ _ _).trans (State.writeFrame_buf _ _)⟩
    · exact .inl rfl

/-- A byte that reads otherwise after a span was written lies in that span. -/
theorem Memory.inside_of_read_writeSpan_ne {m : Memory} {bs : List Byte} {a b : Nat}
    (h : (m.writeSpan a bs).read b ≠ m.read b) : a ≤ b ∧ b < a + bs.length := by
  by_contra hout
  exact h (Memory.read_writeSpan_outside m bs (by omega))

/-- A completion that changes a buffer byte runs a command; an invalid word writes none (R92). -/
theorem exec_of_buf_changed {s t : State} {w : Word} (hturn : s.turn = .engine w) (h : step s = .next t)
    (hbuf : t.buf ≠ s.buf) : ∃ i, decode w = .ok i ∧ exec i s = .next t := by
  rw [step_of_engine hturn] at h
  obtain ⟨i, hi⟩ | ⟨e, he⟩ := decode_cases w
  · exact ⟨i, hi, by rwa [runWord_ok hi] at h⟩
  · rw [runWord_invalid (by simp [he])] at h
    obtain rfl := Host.Outcome.next.inj h
    exact absurd rfl hbuf

/-- Settles O32: only a BUILD with OK writes the buffer, and what it writes is the frame at TX_BASE. -/
theorem engineWritesBufferOnlyInBuild : Obligations.EngineWritesBufferOnlyInBuild := by
  intro s t w hturn h a hne
  have hbuf : t.buf ≠ s.buf := fun heq => hne (by rw [heq])
  obtain ⟨i, hi, hx⟩ := exec_of_buf_changed hturn h hbuf
  obtain hsame | ⟨rfl, hok, hframe⟩ := exec_buf_cases hx
  · exact absurd hsame hbuf
  · rw [hframe] at hne
    obtain ⟨hlow, hhigh⟩ := Memory.inside_of_read_writeSpan_ne hne
    rw [length_frame, Memory.length_readSpan, ← Nat.add_assoc] at hhigh
    exact ⟨hi, hok, hlow, hhigh⟩

/-! ### Legal accesses of the REG aperture -/

theorem step_regRead_legal {s : State} {off : BitVec 8} (h : s.Accesses (.regRead .w32 off))
    (ha : off.toNat % 4 = 0) :
    step s = .next (s.pop.tick.respond (.data (s.pop.tick.readOffset off))) :=
  (step_regRead h).trans (hostRegRead_legal _ ((regLegal_iff _ _).2 ⟨rfl, ha⟩))

theorem step_regWrite_legal {s : State} {off : BitVec 8} {v : Word} (h : s.Accesses (.regWrite .w32 off v))
    (ha : off.toNat % 4 = 0) :
    step s = .next ((s.pop.tick.writeOffset off v).respond .written) :=
  (step_regWrite h).trans (hostRegWrite_legal _ ((regLegal_iff _ _).2 ⟨rfl, ha⟩))

/-- Taking an event off the list and counting it leaves the engine phase as it is. -/
theorem isBusy_pop_tick (s : State) : s.pop.tick.isBusy = s.isBusy := rfl

/-- Taking an event off the list and counting it changes no register. -/
theorem readReg_pop_tick (s : State) (r : Reg) : s.pop.tick.readReg r = s.readReg r := by cases r <;> rfl

/-- An answer changes no register. -/
theorem readReg_respond (s : State) (b : BusResponse) (r : Reg) : (s.respond b).readReg r = s.readReg r := by
  cases r <;> rfl

/-- Settles O40: the answer is the register's value, and the access moves the model's bookkeeping only. -/
theorem legalRegReadReturnsRegister : Obligations.LegalRegReadReturnsRegister := by
  intro s off h ha
  have hread (r : Reg) (hr : off = r.offset) : s.pop.tick.readOffset off = s.readReg r := by
    rw [hr, readOffset_offset, readReg_pop_tick]
  exact ⟨s.pop.tick.readOffset off, step_regRead_legal h ha, hread, fun hcmd => hread .cmd hcmd, readOffset_unmapped⟩

/-- The operands latched with a word, by the three words of R91. -/
theorem latchedOperands_eq (s : State) (w : Word) :
    s.latchedOperands w =
      if w = 0x00000001 then .csum s.csumOps else if w = 0x00000002 then .parse s.parseOps
      else if w = 0x00000003 then .build s.buildOps else .none := by
  simp only [State.latchedOperands, decode, BitVec.ofNat_eq_ofNat]
  split_ifs <;> rfl

/-- Settles O41: a legal write is a write of the register at its offset, so each clause is the rule of one access code
in one phase. -/
theorem legalRegWriteByAccess : Obligations.LegalRegWriteByAccess := by
  intro s off v h ha u
  have hwrite (r : Reg) (hr : off = r.offset) : s.pop.tick.writeOffset off v = s.pop.tick.writeReg v r := by
    rw [hr, writeOffset_offset]
  refine ⟨_, step_regWrite_legal h ha, fun hun => ?unmapped, fun hr => ?ctrl, fun hr => ?status,
    fun r hr hro => ?readOnly, fun r hr hgated hb => ?busy, fun hr hi => ?cmd, fun r hr hop hi => ?operand⟩
  case unmapped => rw [writeOffset_unmapped hun]; rfl
  case ctrl => rw [hwrite .ctrl hr, writeReg_ctrl]; rfl
  case status => rw [hwrite .status hr, writeReg_status, State.writeStatus, ite_clear, ite_clear]; rfl
  case readOnly => rw [hwrite r hr, writeReg_ro hro]; rfl
  case busy => rw [hwrite r hr, writeReg_busy hgated ((isBusy_pop_tick s).trans hb)]; rfl
  case cmd =>
    refine ⟨s.pop.tick.nextDelay, s.freeCount + 1, ?_⟩
    rw [hwrite .cmd hr, writeReg_cmd_idle ((isBusy_pop_tick s).trans hi), ← latchedOperands_eq]
    rfl
  case operand =>
    rw [hwrite r hr, writeReg_operand_idle hop ((isBusy_pop_tick s).trans hi)]
    constructor
    · intro r'
      rw [readReg_respond, readReg_storeOperand hop]
      exact if_congr Iff.rfl rfl (readReg_respond s.pop.tick .written r').symm
    · rw [storeOperand_eq]; rfl

end Sys2Proof.Machine
end

section
/-! PROOF. The invalid command words of 30_encoding.md (R92): which words they are, what accepting one latches, and how
one completes. -/

namespace Sys2Proof.Machine

/-- A command word is its OP field and its RSVD field (R90). -/
theorem eq_of_fields_eq {w v : Word} (hop : w.extractLsb' 0 4 = v.extractLsb' 0 4)
    (hrsvd : w.extractLsb' 4 28 = v.extractLsb' 4 28) : w = v := by
  have join (x : Word) : x.extractLsb' 4 28 ++ x.extractLsb' 0 4 = x := BitVec.extractLsb'_append_extractLsb'
  rw [← join w, ← join v, hop, hrsvd]

/-- The RSVD field of every valid word is 0 (R91). -/
theorem extractRsvd_encode (i : Instr) : (encode i).extractLsb' 4 28 = 0 := by cases i <;> rfl

/-- A word is a command's word exactly when it has the command's OP field and a zero RSVD field (R91). -/
theorem decode_eq_ok_iff_fields (w : Word) (i : Instr) :
    decode w = .ok i ↔ w.extractLsb' 0 4 = (encode i).extractLsb' 0 4 ∧ w.extractLsb' 4 28 = 0 := by
  rw [decode_eq_ok_iff]
  constructor
  · rintro rfl
    exact ⟨rfl, extractRsvd_encode i⟩
  · rintro ⟨hop, hrsvd⟩
    exact eq_of_fields_eq hop (hrsvd.trans (extractRsvd_encode i).symm)

/-- The invalid words by their fields (R92). -/
theorem decode_ne_ok_iff_fields (w : Word) :
    (∀ i, decode w ≠ .ok i) ↔
      (w.extractLsb' 0 4 ≠ 1 ∧ w.extractLsb' 0 4 ≠ 2 ∧ w.extractLsb' 0 4 ≠ 3) ∨ w.extractLsb' 4 28 ≠ 0 := by
  constructor
  · intro hinv
    by_cases hrsvd : w.extractLsb' 4 28 = 0
    · have hop (i : Instr) : w.extractLsb' 0 4 ≠ (encode i).extractLsb' 0 4 := fun h =>
        hinv i ((decode_eq_ok_iff_fields w i).2 ⟨h, hrsvd⟩)
      exact .inl ⟨hop .csum, hop .parse, hop .build⟩
    · exact .inr hrsvd
  · rintro (⟨hcsum, hparse, hbuild⟩ | hrsvd) i
    · intro hd
      obtain ⟨hop, -⟩ := (decode_eq_ok_iff_fields w i).1 hd
      cases i with
      | csum => exact hcsum hop
      | parse => exact hparse hop
      | build => exact hbuild hop
    · exact decode_ne_ok_of_reserved hrsvd i

/-- An invalid word reads no operand register, so accepting it latches none (R51, R92). -/
theorem latchOf_invalid (s : State) {w : Word} (h : ∀ i, decode w ≠ .ok i) :
    s.latchOf w = { word := w, ops := .none } := by
  obtain ⟨i, hi⟩ | ⟨e, he⟩ := decode_cases w
  · exact absurd hi (h i)
  · simp [State.latchOf, State.latchedOperands, he]

/-- A CMD write while Idle makes the engine Busy with the word latched (R63). -/
theorem writeOffset_cmd_idle_phase {s : State} (w : Word) (h : s.phase = .idle) :
    (s.writeOffset 0x0C w).phase = .busy (s.latchOf w) := by
  have hw : s.writeOffset 0x0C w = s.accept w :=
    (writeOffset_offset s w .cmd).trans (writeReg_cmd_idle ((isBusy_eq_false_iff s).2 h))
  rw [hw, State.accept_phase]

/-- The completion of a latched invalid word, when it is the engine's turn (R92, R209, R210). -/
theorem step_invalid {s : State} {l : Latch} (hl : s.phase = .busy l) (hturn : s.left = 0 ∨ s.pending = [])
    (hinv : ∀ i, decode l.word ≠ .ok i) : step s = .next (s.complete (opField l.word) .badCmd) :=
  (step_of_engine ((turn_engine_iff s l.word).2 ⟨l, hl, rfl, hturn⟩)).trans (runWord_invalid hinv s)

/-- Settles O3: a word is its two fields, so the three valid words leave exactly R92's; an invalid word latches no
operand, and its completion is `State.complete` with BADCMD. -/
theorem invalidWordsCompleteWithBadCmd : Obligations.InvalidWordsCompleteWithBadCmd := by
  refine ⟨decode_ne_ok_iff_fields, fun s w hinv hidle => ?_, fun s l hl hturn hinv => step_invalid hl hturn hinv⟩
  rw [writeOffset_cmd_idle_phase w hidle, latchOf_invalid s hinv]

end Sys2Proof.Machine
end

section
/-! PROOF. The Internet checksum of 40_checksum.md: the range of the accumulator (R111), the closed form (R112), what
the command CSUM does (R113) and the round trip of a checksum field (R117). -/

namespace Sys2Proof.Machine

/-! ### The accumulator -/

/-- The fold as a subtraction: the one carry of a 17-bit sum is worth 0x10000 = 0xFFFF + 1 (R110). -/
theorem foldCarry_eq_ite {n : Nat} (h : n ≤ 0x1FFFE) :
    foldCarry n = if n < 0x10000 then n else n - 0xFFFF := by
  simp only [foldCarry]
  split_ifs <;> omega

/-- C is the complement of S (R110). -/
theorem inetCsum_snd (b : List Byte) : (inetCsum b).2 = ~~~(inetCsum b).1 := rfl

/-- S is never 0x0000 (R111). -/
theorem inetCsum_fst_ne_zero (b : List Byte) : (inetCsum b).1 ≠ 0x0000 := by
  intro h
  obtain ⟨hpos, -, -⟩ := inetCsum_sum_spec b
  simp [h] at hpos

/-- C is never 0xFFFF, the complement of 0x0000 (R111). -/
theorem inetCsum_snd_ne_allOnes (b : List Byte) : (inetCsum b).2 ≠ 0xFFFF := by
  rw [inetCsum_snd]
  intro h
  exact inetCsum_fst_ne_zero b (BitVec.not_inj.1 h)

/-- Settles O11: the fold of one addition is `foldCarry_add`, and the induction over the bytes `csumLoop_spec`. -/
theorem accumulatorStaysInRange : Obligations.AccumulatorStaysInRange := by
  refine ⟨by decide, fun acc w hpos hle hw => ?_, fun b => ?_⟩
  · have hsum : acc + w ≤ 0x1FFFE := by omega
    obtain ⟨hfold_pos, hfold_le, -⟩ := foldCarry_add hpos hle hw
    exact ⟨hsum, hfold_pos, hfold_le, foldCarry_eq_ite hsum⟩
  · obtain ⟨hloop_pos, hloop_le, -⟩ := csumLoop_spec b (acc := csumSeed) (by decide) (by decide)
    exact ⟨hloop_pos, hloop_le, inetCsum_fst_ne_zero b, inetCsum_snd_ne_allOnes b⟩

/-! ### The closed form -/

/-- In 1..0xFFFF a number is fixed by its value modulo 65535, so S is the one that is W (R112). -/
theorem eq_toNat_inetCsum_fst {b : List Byte} {x : Nat} (hpos : 1 ≤ x) (hle : x ≤ 0xFFFF)
    (hmod : x % 65535 = wordSum b % 65535) : x = (inetCsum b).1.toNat := by
  obtain ⟨hs_pos, hs_le, hs_mod⟩ := inetCsum_sum_spec b
  omega

/-- S = ((W + 65534) mod 65535) + 1 (R112). -/
theorem toNat_inetCsum_fst_closed (b : List Byte) : (inetCsum b).1.toNat = (wordSum b + 65534) % 65535 + 1 :=
  (eq_toNat_inetCsum_fst (by omega) (by omega) (by omega)).symm

/-- S is 0xFFFF exactly when W is 0 modulo 65535 (R112). -/
theorem inetCsum_fst_eq_allOnes_iff (b : List Byte) : (inetCsum b).1 = 0xFFFF ↔ wordSum b % 65535 = 0 := by
  rw [← BitVec.toNat_inj, toNat_inetCsum_fst_closed, show (0xFFFF : Half).toNat = 65535 from rfl]
  omega

/-- C is 0x0000 exactly when W is 0 modulo 65535 (R112). -/
theorem inetCsum_snd_eq_zero_iff (b : List Byte) : (inetCsum b).2 = 0x0000 ↔ wordSum b % 65535 = 0 := by
  rw [← inetCsum_fst_eq_allOnes_iff, inetCsum_snd, ← BitVec.not_inj (x := (inetCsum b).1)]
  rfl

/-- The pair depends on the bytes through W alone (R112). -/
theorem inetCsum_congr {b b' : List Byte} (h : wordSum b = wordSum b') : inetCsum b = inetCsum b' := by
  have hfst : (inetCsum b).1 = (inetCsum b').1 := by
    rw [← BitVec.toNat_inj, toNat_inetCsum_fst_closed, toNat_inetCsum_fst_closed, h]
  exact Prod.ext hfst (congrArg (~~~ ·) hfst)

/-- W of a sequence of whole words is the sum of their values. -/
theorem wordSum_flatMap (ws : List (Byte × Byte)) :
    wordSum (ws.flatMap fun p => [p.1, p.2]) = (ws.map fun p => p.1.toNat * 256 + p.2.toNat).sum := by
  induction ws with
  | nil => rfl
  | cons p ws ih => simp [wordSum, ih]

/-- Settles O10: the pair is a function of W modulo 65535, and W is a sum, so the order of the words does not matter. -/
theorem inetCsumClosedForm : Obligations.InetCsumClosedForm := by
  refine ⟨fun b => ⟨toNat_inetCsum_fst_closed b, toNat_inetCsum_csum b, fun x => eq_toNat_inetCsum_fst,
    inetCsum_snd_eq_zero_iff b⟩, fun ws ws' hperm => ?_, by decide⟩
  apply inetCsum_congr
  rw [wordSum_flatMap, wordSum_flatMap]
  exact (hperm.map _).sum_eq

/-! ### The command -/

/-- Settles O9: CSUM's two outcomes are `exec_csum_ok` and `exec_csum_range`, and the registers' values the closed
form. -/
theorem csumSumsItsSpan : Obligations.CsumSumsItsSpan := by
  intro s o W
  refine ⟨fun hin => ?inside, exec_csum_range⟩
  case inside =>
    have hacc := toNat_inetCsum_fst_closed (s.buf.readSpan o.base.toNat o.len.toNat)
    refine ⟨_, exec_csum_ok hin, hacc, ?_⟩
    rw [← hacc]
    exact toNat_inetCsum_csum _

/-! ### The checksum field -/

/-- A 16-bit value is its high byte times 256 plus its low byte (R7). -/
theorem toNat_high_low (v : Half) : (v.extractLsb' 8 8).toNat * 256 + (v.extractLsb' 0 8).toNat = v.toNat := by
  have hv := v.isLt
  simp only [BitVec.extractLsb'_toNat, Nat.shiftRight_eq_div_pow]
  omega

/-- The pair of an input whose word sum is 0 modulo 65535 (R112). -/
theorem inetCsum_of_wordSum_mod_eq_zero {b : List Byte} (h : wordSum b % 65535 = 0) :
    inetCsum b = (0xFFFF, 0x0000) :=
  Prod.ext ((inetCsum_fst_eq_allOnes_iff b).2 h) ((inetCsum_snd_eq_zero_iff b).2 h)

/-- A checksum added to the word sum it was made of gives 0 modulo 65535: W is S modulo 65535 and S + C = 0xFFFF. -/
theorem wordSum_add_csum_mod_eq_zero (b : List Byte) : (wordSum b + (inetCsum b).2.toNat) % 65535 = 0 := by
  obtain ⟨-, hs_le, hs_mod⟩ := inetCsum_sum_spec b
  rw [toNat_inetCsum_csum]
  omega

/-- Settles O12: the zero field takes C into the word sum, which then is 0 modulo 65535. -/
theorem checksumRoundTrip : Obligations.ChecksumRoundTrip := by
  intro b j _ heven hhigh hlow
  obtain ⟨_, hhigh⟩ := List.getElem?_eq_some_iff.1 hhigh
  obtain ⟨hj, hlow⟩ := List.getElem?_eq_some_iff.1 hlow
  apply inetCsum_of_wordSum_mod_eq_zero
  rw [wordSum_set_word b j _ _ heven hj hhigh hlow, toNat_high_low]
  exact wordSum_add_csum_mod_eq_zero b

end Sys2Proof.Machine
end

section
/-! PROOF. The command PARSE of 41_parse.md: which frame bytes it looks at (R138, R142), what it yields (R136, R140,
R141), and that it inverts BUILD (R143). -/

namespace Sys2Proof.Machine

/-! ### The header fields as numbers -/

/-- The version is the high nibble of byte 0 (R97). -/
theorem frameVersion_eq_four_iff (s : State) (o : ParseOperands) :
    s.frameVersion o = 4 ↔ (s.frameByte o 0).toNat / 16 = 4 := by
  have hlt := (s.frameByte o 0).isLt
  rw [State.frameVersion, ← BitVec.toNat_inj, BitVec.extractLsb'_toNat, Nat.shiftRight_eq_div_pow,
    show (4 : BitVec 4).toNat = 4 from rfl]
  omega

/-- IHL is the low nibble of byte 0, and the header is 4 * IHL bytes long (R97). -/
theorem frameHeaderLen_eq (s : State) (o : ParseOperands) :
    s.frameHeaderLen o = 4 * ((s.frameByte o 0).toNat % 16) := by
  rw [State.frameHeaderLen, State.frameIhl, BitVec.extractLsb'_toNat, Nat.shiftRight_zero]

/-- Byte 9 names UDP exactly when it is 17 (R134). -/
theorem eq_udpProtocol_iff (b : Byte) : b = udpProtocol ↔ b.toNat = 17 := by
  rw [← BitVec.toNat_inj]
  rfl

/-- The payload view of an accepted frame lies in the buffer, so its base fits the register (R136). -/
theorem toNat_parseFields_plBase {s : State} {o : ParseOperands} (h : s.parseFailure o = none) :
    (s.parseFields o).plBase.toNat = o.base.toNat + s.frameOffset o := by
  obtain ⟨hspan, -, -, -, hoff⟩ := (parseFailure_eq_none_iff s o).1 h
  have hsize := bufSize_le s
  exact (BitVec.toNat_ofNat _ _).trans (Nat.mod_eq_of_lt (by omega))

/-- The length of the payload view fits its register, for it is at most RX_LEN (R136). -/
theorem toNat_parseFields_plLen (s : State) (o : ParseOperands) :
    (s.parseFields o).plLen.toNat = o.len.toNat - s.frameOffset o :=
  (BitVec.toNat_ofNat _ _).trans (Nat.mod_eq_of_lt (Nat.lt_of_le_of_lt (Nat.sub_le _ _) o.len.isLt))

/-! ### What a PARSE yields -/

/-- Settles O14: the five conditions are those of `parseFailure_eq_none_iff`, and the results are the parsed fields. -/
theorem parseExtractsEndpoints : Obligations.ParseExtractsEndpoints := by
  intro s o b hlen hspan hlen20 hversion hudp hoff
  have hheader : s.frameHeaderLen o = hlen := frameHeaderLen_eq s o
  have hoffset : s.frameOffset o = hlen + 8 := congrArg (· + 8) hheader
  have haccept : s.parseFailure o = none :=
    (parseFailure_eq_none_iff s o).2 ⟨hspan, hlen20, (frameVersion_eq_four_iff s o).2 hversion,
      (eq_udpProtocol_iff _).2 hudp, hoffset ▸ hoff⟩
  refine ⟨s.parseFields o, exec_parse_ok haccept, toNat_be32 _ _ _ _, toNat_be32 _ _ _ _, ?srcPort, ?dstPort,
    ?plBase, ?plLen⟩
  case srcPort => rw [← hheader]; exact toNat_be16 _ _
  case dstPort => rw [← hheader]; exact toNat_be16 _ _
  case plBase => rw [toNat_parseFields_plBase haccept, hoffset]
  case plLen => rw [toNat_parseFields_plLen, hoffset]

/-- Settles O16: of PARSE's two outcomes one has ERR = OK, and the other writes the cleared results. -/
theorem failedParseLeavesNoResult : Obligations.FailedParseLeavesNoResult := by
  intro s t h herr
  obtain ⟨-, hx⟩ | ⟨c, -, hx⟩ := exec_parse_cases s <;> obtain rfl := exec_next_unique h hx
  · exact absurd rfl herr
  · exact ⟨rfl, rfl, rfl, rfl, rfl, rfl, rfl⟩

/-! ### The bytes a PARSE looks at -/

/-- Frame byte `i` is one that PARSE names when the header is `hlen` bytes long: version and IHL, the protocol, the two
addresses, the two ports (R133 to R136). -/
def ParseNames (hlen i : Nat) : Prop := i = 0 ∨ i = 9 ∨ (12 ≤ i ∧ i ≤ 19) ∨ (hlen ≤ i ∧ i ≤ hlen + 3)

/-- The outcome of the checks depends on the size, and on bytes 0 and 9 of a frame of at least 20 bytes. -/
theorem parseFailure_congr {s s' : State} {o : ParseOperands} (haddr : s.addrBits = s'.addrBits)
    (hread : 20 ≤ o.len.toNat → s.frameByte o 0 = s'.frameByte o 0 ∧ s.frameByte o 9 = s'.frameByte o 9) :
    s.parseFailure o = s'.parseFailure o := by
  have hspan : s.spanInBuf o.base.toNat o.len.toNat = s'.spanInBuf o.base.toNat o.len.toNat := by
    rw [State.spanInBuf, State.spanInBuf, State.bufSize, State.bufSize, haddr]
  by_cases hshort : o.len.toNat < 20
  · simp only [State.parseFailure, hspan, hshort, if_true]
  · obtain ⟨h0, h9⟩ := hread (Nat.le_of_not_lt hshort)
    have hversion : s.frameVersion o = s'.frameVersion o := by rw [State.frameVersion, State.frameVersion, h0]
    have hoff : s.frameOffset o = s'.frameOffset o := by
      rw [State.frameOffset, State.frameOffset, frameHeaderLen_eq, frameHeaderLen_eq, h0]
    rw [State.parseFailure, State.parseFailure, hspan, hversion, h9, hoff]

/-- The results depend on the operands and the named bytes. -/
theorem parseFields_congr {s s' : State} {o : ParseOperands}
    (hread : ∀ i, ParseNames (s.frameHeaderLen o) i → s.frameByte o i = s'.frameByte o i) :
    s.parseFields o = s'.parseFields o := by
  have hheader : s.frameHeaderLen o = s'.frameHeaderLen o := by
    rw [frameHeaderLen_eq, frameHeaderLen_eq, hread 0 (.inl rfl)]
  have hword (i : Nat) (hlow : 12 ≤ i) (hhigh : i ≤ 16) : s.frameWord o i = s'.frameWord o i := by
    have hbyte (k : Nat) (hk : k ≤ 3) : s.frameByte o (i + k) = s'.frameByte o (i + k) :=
      hread _ (.inr (.inr (.inl (by omega))))
    rw [State.frameWord, hread i (.inr (.inr (.inl (by omega)))), hbyte 1 (by omega), hbyte 2 (by omega),
      hbyte 3 (by omega), ← State.frameWord]
  have hport (k : Nat) (hk : k ≤ 2) :
      s.frameHalf o (s.frameHeaderLen o + k) = s'.frameHalf o (s.frameHeaderLen o + k) := by
    rw [State.frameHalf, hread _ (.inr (.inr (.inr (by omega)))),
      hread (s.frameHeaderLen o + k + 1) (.inr (.inr (.inr (by omega)))), ← State.frameHalf]
  have hsrc := hport 0 (by omega)
  have hdst := hport 2 (by omega)
  rw [Nat.add_zero] at hsrc
  rw [State.parseFields, State.parseFields, State.frameOffset, State.frameOffset, hsrc, hdst, hheader,
    hword 12 (by omega) (by omega), hword 16 (by omega) (by omega)]

/-- Two PARSEs with the same size and operands have the same results and ERR when the buffers agree on the bytes PARSE
names in the frame, as far as these lie within RX_LEN (R138, R142). -/
theorem exec_parse_congr {s s' : State} (haddr : s.addrBits = s'.addrBits) (hops : s.parseOperands = s'.parseOperands)
    (hread : ∀ i, ParseNames (s.frameHeaderLen s.parseOperands) i → i < s.parseOperands.len.toNat →
      s.frameByte s.parseOperands i = s'.frameByte s.parseOperands i) :
    ∃ r valid code, exec .parse s = .next ((s.setParse r valid).complete 2 code) ∧
      exec .parse s' = .next ((s'.setParse r valid).complete 2 code) := by
  have hfail : s.parseFailure s.parseOperands = s'.parseFailure s'.parseOperands := by
    rw [← hops]
    exact parseFailure_congr haddr fun h20 =>
      ⟨hread 0 (.inl rfl) (by omega), hread 9 (.inr (.inl rfl)) (by omega)⟩
  obtain ⟨hnone, hx⟩ | ⟨c, hsome, hx⟩ := exec_parse_cases s
  · obtain ⟨-, h20, -, -, hoff⟩ := (parseFailure_eq_none_iff s _).1 hnone
    have hfields : s.parseFields s.parseOperands = s'.parseFields s'.parseOperands := by
      rw [← hops]
      refine parseFields_congr fun i hi => hread i hi ?_
      rw [ParseNames] at hi
      rw [State.frameOffset] at hoff
      omega
    refine ⟨_, _, _, hx, ?_⟩
    rw [hfields]
    exact exec_parse_ok (hfail.symm.trans hnone)
  · exact ⟨_, _, _, hx, exec_parse_fail (hfail.symm.trans hsome)⟩

/-- Settles O17: both outcomes of PARSE set the results, STATUS and the phase alone, and the named bytes within RX_LEN
are bytes of the frame. -/
theorem parseWritesOnlyItsResults : Obligations.ParseWritesOnlyItsResults := by
  refine ⟨fun s => ?frame, fun s s' haddr hops hspan => ?function⟩
  case frame => obtain ⟨-, hx⟩ | ⟨c, -, hx⟩ := exec_parse_cases s <;> exact ⟨_, hx, rfl⟩
  case function =>
    obtain ⟨r, valid, code, hx, hx'⟩ := exec_parse_congr haddr hops fun i _ hi =>
      hspan _ ((inSpan_iff _ _ _).2 ⟨Nat.le_add_right _ _, Nat.add_lt_add_left hi _⟩)
    exact ⟨_, _, hx, hx', rfl, rfl, rfl⟩

/-- Settles O18: PARSE looks at no byte but those it names. -/
theorem parseIgnoresOtherFields : Obligations.ParseIgnoresOtherFields := by
  intro s m base hlen hread
  have hheader : s.frameHeaderLen s.parseOperands = hlen := frameHeaderLen_eq s s.parseOperands
  obtain ⟨r, valid, code, hx, hx'⟩ := exec_parse_congr (s := s) (s' := { s with buf := m }) rfl rfl fun i hi _ =>
    (hread i (hheader ▸ hi)).symm
  exact ⟨_, hx, hx'⟩

/-! ### PARSE after BUILD -/

/-- A 16-bit field read back from its big-endian bytes (R7). -/
theorem be16_bytes (v : Half) : be16 (v.extractLsb' 8 8) (v.extractLsb' 0 8) = v := by
  rw [← BitVec.toNat_inj, toNat_be16, toNat_high_low]

/-- A 32-bit field read back from its big-endian bytes (R7). -/
theorem be32_bytes (v : Word) :
    be32 (v.extractLsb' 24 8) (v.extractLsb' 16 8) (v.extractLsb' 8 8) (v.extractLsb' 0 8) = v := by
  have hv := v.isLt
  rw [← BitVec.toNat_inj, toNat_be32]
  simp only [BitVec.extractLsb'_toNat, Nat.shiftRight_eq_div_pow]
  omega

/-- The payload stands in the frame after its 28 header bytes (R160). -/
theorem getElem_frame_payload (o : BuildOperands) (p : List Byte) (k : Nat) (hk : k < p.length) :
    (o.frame p)[28 + k]'(by simpa using hk) = p[k] := by
  have hheaders : (o.ipHeader o.headerCsum ++ o.udpHeader).length = 28 := rfl
  simp only [BuildOperands.frame]
  rw [List.getElem_append_right (by omega)]
  simp only [hheaders, Nat.add_sub_cancel_left]

/-- The frame of the parse operands `q` in `u` is the frame that `o` makes around the payload `p`. -/
structure State.HoldsFrame (u : State) (q : ParseOperands) (o : BuildOperands) (p : List Byte) : Prop where
  bytes : ∀ k (hk : k < (o.frame p).length), u.frameByte q k = (o.frame p)[k]
  length : q.len.toNat = (o.frame p).length
  inside : q.base.toNat + q.len.toNat ≤ u.bufSize

section HoldsFrame

variable {u : State} {q : ParseOperands} {o : BuildOperands} {p : List Byte}

/-- A header byte of a held frame. -/
theorem State.HoldsFrame.headerByte (h : u.HoldsFrame q o p) (k : Nat) (hk : k < 28) :
    u.frameByte q k = (o.frame p)[k]'(by simp; omega) := h.bytes k (by simp; omega)

/-- A made frame has version 4 and IHL 5 (R162). -/
theorem State.HoldsFrame.byte_zero (h : u.HoldsFrame q o p) : u.frameByte q 0 = 0x45 := h.headerByte 0 (by decide)

theorem State.HoldsFrame.frameHeaderLen_eq_twenty (h : u.HoldsFrame q o p) : u.frameHeaderLen q = 20 := by
  rw [frameHeaderLen_eq, h.byte_zero]
  rfl

theorem State.HoldsFrame.frameOffset_eq_twentyEight (h : u.HoldsFrame q o p) : u.frameOffset q = 28 := by
  rw [State.frameOffset, h.frameHeaderLen_eq_twenty]

/-- PARSE accepts a made frame: byte 0 is 0x45, byte 9 is 17, and 28 bytes at least are there (R162). -/
theorem State.HoldsFrame.parseFailure_eq_none (h : u.HoldsFrame q o p) : u.parseFailure q = none := by
  have hlen : q.len.toNat = 28 + p.length := by rw [h.length, length_frame]
  refine (parseFailure_eq_none_iff u q).2 ⟨h.inside, by omega, ?version, ?protocol,
    by rw [h.frameOffset_eq_twentyEight]; omega⟩
  case version => rw [frameVersion_eq_four_iff, h.byte_zero]; rfl
  case protocol => rw [h.headerByte 9 (by decide)]; rfl

/-- The four endpoint fields of a made frame are BUILD's operands (R162, R163). -/
theorem State.HoldsFrame.endpoints (h : u.HoldsFrame q o p) :
    (u.parseFields q).srcAddr = o.srcAddr ∧ (u.parseFields q).srcPort = o.srcPort ∧
      (u.parseFields q).dstAddr = o.dstAddr ∧ (u.parseFields q).dstPort = o.dstPort := by
  simp only [State.parseFields, State.frameWord, State.frameHalf, h.frameHeaderLen_eq_twenty, Nat.reduceAdd]
  refine ⟨?_, ?_, ?_, ?_⟩
  · rw [h.headerByte 12 (by decide), h.headerByte 13 (by decide), h.headerByte 14 (by decide),
      h.headerByte 15 (by decide)]
    exact be32_bytes o.srcAddr
  · rw [h.headerByte 20 (by decide), h.headerByte 21 (by decide)]
    exact be16_bytes o.srcPort
  · rw [h.headerByte 16 (by decide), h.headerByte 17 (by decide), h.headerByte 18 (by decide),
      h.headerByte 19 (by decide)]
    exact be32_bytes o.dstAddr
  · rw [h.headerByte 22 (by decide), h.headerByte 23 (by decide)]
    exact be16_bytes o.dstPort

/-- The payload view of a made frame is as long as the payload. -/
theorem State.HoldsFrame.toNat_plLen (h : u.HoldsFrame q o p) : (u.parseFields q).plLen.toNat = p.length := by
  rw [toNat_parseFields_plLen, h.frameOffset_eq_twentyEight, h.length, length_frame, Nat.add_sub_cancel_left]

/-- The payload view of a made frame holds the payload. -/
theorem State.HoldsFrame.read_payload (h : u.HoldsFrame q o p) (k : Nat) (hk : k < p.length) :
    u.buf.read ((u.parseFields q).plBase.toNat + k) = p[k] := by
  have hbyte := h.bytes (28 + k) (by simpa using hk)
  rw [getElem_frame_payload o p k hk] at hbyte
  rw [toNat_parseFields_plBase h.parseFailure_eq_none, h.frameOffset_eq_twentyEight, Nat.add_assoc]
  exact hbyte

end HoldsFrame

/-- After a BUILD with OK the buffer holds its frame, for a PARSE of (TX_BASE, TX_LEN). -/
theorem holdsFrame_of_built {s t u : State} (h : exec .build s = .next t) (hok : t.status.err = .ok)
    (hbuf : u.buf = t.buf) (haddr : u.addrBits = t.addrBits) (hbase : u.parseOperands.base = s.buildOperands.base)
    (hlen : u.parseOperands.len = t.txLen) :
    u.HoldsFrame u.parseOperands s.buildOperands
      (s.buf.readSpan s.buildOperands.plBase.toNat s.buildOperands.plLen.toNat) := by
  obtain ⟨⟨houtput, -, htotal, hcap, -⟩, ht⟩ := exec_build_inv h hok
  have hsize : u.bufSize = s.bufSize := by rw [State.bufSize, haddr, ht]; rfl
  have htx : u.parseOperands.len.toNat = 28 + s.buildOperands.plLen.toNat := by
    rw [hlen, ht, State.complete_txLen, State.writeFrame_txLen]
    exact (BitVec.toNat_ofNat _ _).trans (Nat.mod_eq_of_lt (by rw [BuildOperands.total]; omega))
  constructor
  case bytes =>
    intro k hk
    rw [length_frame, Memory.length_readSpan] at hk
    rw [State.frameByte, hbuf, hbase, read_built h hok k hk]
  case length => rw [htx, length_frame, Memory.length_readSpan]
  case inside => rw [htx, hbase, hsize]; omega

/-- Settles O31: the buffer holds BUILD's frame, which PARSE accepts and takes apart again. -/
theorem buildThenParseRoundTrip : Obligations.BuildThenParseRoundTrip := by
  intro s t u h hok hbuf haddr hbase hlen
  have hheld := holdsFrame_of_built h hok hbuf haddr hbase hlen
  obtain ⟨hsrcAddr, hsrcPort, hdstAddr, hdstPort⟩ := hheld.endpoints
  refine ⟨_, exec_parse_ok hheld.parseFailure_eq_none, rfl, rfl, hsrcAddr, hsrcPort, hdstAddr, hdstPort,
    ?length, ?payload⟩
  case length =>
    apply BitVec.eq_of_toNat_eq
    exact hheld.toNat_plLen.trans (Memory.length_readSpan _ _ _)
  case payload =>
    intro k hk
    exact (hheld.read_payload k (by simpa using hk)).trans (Memory.getElem_readSpan _ _ _ _ _)

end Sys2Proof.Machine
end

section
/-! PROOF. The command BUILD of 42_build.md: the failure it reports (R161) and what a failed BUILD leaves (R168), the
registers it writes (R170), the two headers of its frame (R162, R163) with the counter (R166), the checksum (R165, R172)
and the three lengths (R171). -/

namespace Sys2Proof.Machine

/-! ### The outcome -/

/-- The report of R161 as one chain of tests, with OK where all of them pass. -/
theorem buildFailure_getD_ok (s : State) (o : BuildOperands) :
    (s.buildFailure o).getD .ok =
      if s.bufSize < o.base.toNat + o.cap.toNat ∨ s.bufSize < o.plBase.toNat + o.plLen.toNat then StatusCode.range
      else if 65535 < 28 + o.plLen.toNat then .tooBig
      else if o.cap.toNat < 28 + o.plLen.toNat then .size
      else if o.srcAf ≠ 0 ∨ o.dstAf ≠ 0 then .afNoSupport
      else .ok := by
  have hregion : (!(s.spanInBuf o.base.toNat o.cap.toNat && s.spanInBuf o.plBase.toNat o.plLen.toNat)) = true ↔
      s.bufSize < o.base.toNat + o.cap.toNat ∨ s.bufSize < o.plBase.toNat + o.plLen.toNat := by
    simp only [Bool.not_eq_true', Bool.and_eq_false_iff, State.spanInBuf, decide_eq_false_iff_not, Nat.not_le]
  rw [State.buildFailure, BuildOperands.total]
  simp only [hregion]
  split_ifs <;> rfl

/-- Inversion: the state a failed BUILD leaves (R168). -/
theorem exec_build_fail_inv {s t : State} (h : exec .build s = .next t) (hfail : t.status.err ≠ .ok) :
    t = (s.setTxLen 0).complete 3 t.status.err := by
  obtain ⟨-, hx⟩ | ⟨c, -, hx⟩ := exec_build_cases s <;> obtain rfl := exec_next_unique h hx
  · exact absurd rfl hfail
  · rfl

/-- Settles O19: BUILD's two outcomes, against the chain `buildFailure_getD_ok`. -/
theorem buildReportsFirstFailure : Obligations.BuildReportsFirstFailure := by
  intro s o
  rw [← buildFailure_getD_ok s o]
  obtain ⟨hpass, hx⟩ | ⟨c, hfail, hx⟩ := exec_build_cases s
  · exact ⟨_, hx, by rw [hpass]; rfl, fun hne => absurd rfl hne⟩
  · exact ⟨_, hx, by rw [hfail]; rfl, fun _ => rfl⟩

/-- Settles O21: a failed BUILD is `setTxLen 0` and the completion, field by field. -/
theorem failedBuildChangesNothingElse : Obligations.FailedBuildChangesNothingElse :=
  fun _ _ h hfail => exec_build_fail_inv h hfail

/-- Settles O27: both outcomes write the buffer, TX_LEN, PKT_ID, STATUS and the phase at most. -/
theorem buildWritesOnlyItsRegisters : Obligations.BuildWritesOnlyItsRegisters := by
  intro s
  obtain ⟨-, hx⟩ | ⟨c, -, hx⟩ := exec_build_cases s
  · exact ⟨_, hx, by simp only [State.complete, State.writeFrame]⟩
  · exact ⟨_, hx, rfl⟩

/-! ### Big-endian fields -/

/-- A 32-bit value is the sum of its weighted bytes (R7). -/
theorem toNat_bytes32 (v : Word) :
    (v.extractLsb' 24 8).toNat * 2 ^ 24 + (v.extractLsb' 16 8).toNat * 2 ^ 16 + (v.extractLsb' 8 8).toNat * 2 ^ 8 +
      (v.extractLsb' 0 8).toNat = v.toNat := by
  rw [← toNat_be32, be32_bytes]

/-- The total length fits its 16-bit field, by the test of R161 (R171). -/
theorem State.BuildOk.toNat_totalField {s : State} (h : s.BuildOk) :
    (BitVec.ofNat 16 s.buildOperands.total).toNat = 28 + s.buildOperands.plLen.toNat :=
  (BitVec.toNat_ofNat _ _).trans (Nat.mod_eq_of_lt (Nat.lt_succ_of_le h.lengths))

/-- The UDP length fits its 16-bit field (R171). -/
theorem State.BuildOk.toNat_udpLengthField {s : State} (h : s.BuildOk) :
    (BitVec.ofNat 16 (8 + s.buildOperands.plLen.toNat)).toNat = 8 + s.buildOperands.plLen.toNat := by
  have hlengths := h.lengths
  exact (BitVec.toNat_ofNat _ _).trans (Nat.mod_eq_of_lt (by omega))

/-! ### The headers in the buffer -/

section Built

variable {s t : State}

/-- A byte of the IPv4 header a successful BUILD wrote. -/
theorem read_built_ipHeader (h : exec .build s = .next t) (hok : t.status.err = .ok) (k : Nat) (hk : k < 20) :
    t.buf.read (s.buildOperands.base.toNat + k) =
      (s.buildOperands.ipHeader s.buildOperands.headerCsum)[k]'(by simpa using hk) := by
  rw [read_built h hok k (by omega)]
  simp only [BuildOperands.frame, List.append_assoc]
  exact List.getElem_append_left _

/-- A byte of the UDP header a successful BUILD wrote. -/
theorem read_built_udpHeader (h : exec .build s = .next t) (hok : t.status.err = .ok) (k : Nat) (hk : k < 8) :
    t.buf.read (s.buildOperands.base.toNat + 20 + k) = s.buildOperands.udpHeader[k]'(by simpa using hk) := by
  rw [Nat.add_assoc, read_built h hok (20 + k) (by omega)]
  simp only [BuildOperands.frame, List.append_assoc]
  rw [List.getElem_append_right (by simp)]
  simp only [length_ipHeader, Nat.add_sub_cancel_left]
  exact List.getElem_append_left _

theorem readSpan_built_ipHeader (h : exec .build s = .next t) (hok : t.status.err = .ok) :
    t.buf.readSpan s.buildOperands.base.toNat 20 = s.buildOperands.ipHeader s.buildOperands.headerCsum := by
  apply List.ext_getElem (by simp)
  intro k hk _
  rw [Memory.getElem_readSpan, read_built_ipHeader h hok k (by simpa using hk)]

/-- The total-length field of the frame (R162). -/
theorem built_totalLength (h : exec .build s = .next t) (hok : t.status.err = .ok) :
    (t.buf.read (s.buildOperands.base.toNat + 2)).toNat * 256 + (t.buf.read (s.buildOperands.base.toNat + 3)).toNat =
      28 + s.buildOperands.plLen.toNat := by
  rw [read_built_ipHeader h hok 2 (by decide), read_built_ipHeader h hok 3 (by decide)]
  exact (toNat_high_low _).trans (exec_build_inv h hok).1.toNat_totalField

/-- The identification field of the frame (R162). -/
theorem built_identification (h : exec .build s = .next t) (hok : t.status.err = .ok) :
    (t.buf.read (s.buildOperands.base.toNat + 4)).toNat * 256 + (t.buf.read (s.buildOperands.base.toNat + 5)).toNat =
      s.buildOperands.pktId.toNat := by
  rw [read_built_ipHeader h hok 4 (by decide), read_built_ipHeader h hok 5 (by decide)]
  exact toNat_high_low _

/-- The checksum field of the frame (R165). -/
theorem built_checksumBytes (h : exec .build s = .next t) (hok : t.status.err = .ok) :
    t.buf.read (s.buildOperands.base.toNat + 10) = s.buildOperands.headerCsum.extractLsb' 8 8 ∧
      t.buf.read (s.buildOperands.base.toNat + 11) = s.buildOperands.headerCsum.extractLsb' 0 8 :=
  ⟨read_built_ipHeader h hok 10 (by decide), read_built_ipHeader h hok 11 (by decide)⟩

theorem built_checksumPair (h : exec .build s = .next t) (hok : t.status.err = .ok) {c : Half}
    (hc : s.buildOperands.headerCsum = c) :
    (t.buf.read (s.buildOperands.base.toNat + 10), t.buf.read (s.buildOperands.base.toNat + 11)) =
      (c.extractLsb' 8 8, c.extractLsb' 0 8) :=
  hc ▸ Prod.ext (built_checksumBytes h hok).1 (built_checksumBytes h hok).2

/-- The UDP length field of the frame (R163). -/
theorem built_udpLength (h : exec .build s = .next t) (hok : t.status.err = .ok) :
    (t.buf.read (s.buildOperands.base.toNat + 20 + 4)).toNat * 256 +
      (t.buf.read (s.buildOperands.base.toNat + 20 + 5)).toNat = 8 + s.buildOperands.plLen.toNat := by
  rw [read_built_udpHeader h hok 4 (by decide), read_built_udpHeader h hok 5 (by decide)]
  exact (toNat_high_low _).trans (exec_build_inv h hok).1.toNat_udpLengthField

/-- The header in the buffer with its checksum field cleared is the header the checksum was made of (R165). -/
theorem built_header_cleared (h : exec .build s = .next t) (hok : t.status.err = .ok) :
    ((t.buf.readSpan s.buildOperands.base.toNat 20).set 10 0).set 11 0 = s.buildOperands.ipHeader 0 := by
  rw [readSpan_built_ipHeader h hok]
  rfl

end Built

/-- Settles O22: the fields of `ipHeader`, read from the buffer. -/
theorem buildWritesIpHeader : Obligations.BuildWritesIpHeader := by
  intro s t h hok o b
  have hbyte : ∀ k (hk : k < 20), b k = ((o.ipHeader o.headerCsum)[k]'(by simpa using hk)).toNat :=
    fun k hk => congrArg BitVec.toNat (read_built_ipHeader h hok k hk)
  refine ⟨hbyte 0 (by decide), hbyte 1 (by decide), built_totalLength h hok, built_identification h hok,
    hbyte 6 (by decide), hbyte 7 (by decide), hbyte 8 (by decide), hbyte 9 (by decide), ?checksum, ?source, ?dest⟩
  case checksum =>
    rw [built_header_cleared h hok, hbyte 10 (by decide), hbyte 11 (by decide)]
    exact toNat_high_low _
  case source =>
    rw [hbyte 12 (by decide), hbyte 13 (by decide), hbyte 14 (by decide), hbyte 15 (by decide)]
    exact toNat_bytes32 _
  case dest =>
    rw [hbyte 16 (by decide), hbyte 17 (by decide), hbyte 18 (by decide), hbyte 19 (by decide)]
    exact toNat_bytes32 _

/-- Settles O24: the fields of `udpHeader`, read from the buffer. -/
theorem buildWritesUdpHeader : Obligations.BuildWritesUdpHeader := by
  intro s t h hok o b
  have hbyte : ∀ k (hk : k < 8), b k = (o.udpHeader[k]'(by simpa using hk)).toNat :=
    fun k hk => congrArg BitVec.toNat (read_built_udpHeader h hok k hk)
  refine ⟨?source, ?dest, built_udpLength h hok, hbyte 6 (by decide), hbyte 7 (by decide)⟩
  case source => rw [hbyte 0 (by decide), hbyte 1 (by decide)]; exact toNat_high_low _
  case dest => rw [hbyte 2 (by decide), hbyte 3 (by decide)]; exact toNat_high_low _

/-- Settles O28: the identification field is read back, and PKT_ID is what `writeFrame` or `setTxLen` leaves. -/
theorem buildAdvancesCounter : Obligations.BuildAdvancesCounter := by
  intro s
  obtain ⟨t, h, -⟩ := exec_completes .build s
  refine ⟨t, h, fun hok => ⟨built_identification h hok, ?advanced⟩, fun hfail => ?kept⟩
  case advanced =>
    obtain ⟨-, rfl⟩ := exec_build_inv h hok
    exact BitVec.toNat_add _ _
  case kept => rw [exec_build_fail_inv h hfail]; rfl

/-- Settles O29: 28 + L passed the test against 65535, so no field reduces it. -/
theorem buildLengthFieldsAgree : Obligations.BuildLengthFieldsAgree := by
  intro s t h hok o b
  obtain ⟨⟨-, -, hlengths, -, -⟩, ht⟩ := exec_build_inv h hok
  have hpayload : s.buildOperands.plLen.toNat ≤ 65507 := by omega
  refine ⟨hpayload, built_totalLength h hok, built_udpLength h hok, ?txLen⟩
  rw [ht, State.complete_txLen, State.writeFrame_txLen, BuildOperands.total, BitVec.toNat_ofNat]
  exact Nat.mod_eq_of_lt (by omega)

/-! ### The header checksum -/

/-- W of the IPv4 header: the sum of its ten words (R112, R162). -/
theorem wordSum_ipHeader (o : BuildOperands) (c : Half) :
    wordSum (o.ipHeader c) = 0x4500 + (BitVec.ofNat 16 o.total).toNat + o.pktId.toNat + 0x3F11 + c.toNat +
      wordSum (bytesBe32 o.srcAddr) + wordSum (bytesBe32 o.dstAddr) := by
  rw [← toNat_high_low (BitVec.ofNat 16 o.total), ← toNat_high_low o.pktId, ← toNat_high_low c]
  simp only [BuildOperands.ipHeader, bytesBe16, bytesBe32, List.cons_append, List.nil_append, wordSum,
    BitVec.reduceToNat]
  omega

/-- The header with its checksum injected sums to (0xFFFF, 0x0000) (R117, R165). -/
theorem inetCsum_ipHeader_headerCsum (o : BuildOperands) :
    inetCsum (o.ipHeader o.headerCsum) = (0xFFFF, 0x0000) := by
  have hinject : wordSum (o.ipHeader o.headerCsum) = wordSum (o.ipHeader 0) + o.headerCsum.toNat := by
    simp only [wordSum_ipHeader, BitVec.reduceToNat]
    omega
  apply inetCsum_of_wordSum_mod_eq_zero
  rw [hinject]
  exact wordSum_add_csum_mod_eq_zero _

/-- Settles O23: the field holds `headerCsum`, and the header with it in place sums to 0 modulo 65535. -/
theorem buildInjectsChecksum : Obligations.BuildInjectsChecksum := by
  intro s t h hok base header C
  have hC : C = s.buildOperands.headerCsum := by
    simp only [C, header, base, built_header_cleared h hok, BuildOperands.headerCsum]
  obtain ⟨hhigh, hlow⟩ := built_checksumBytes h hok
  refine ⟨hC ▸ hhigh, hC ▸ hlow, ?sums⟩
  rw [show header = _ from readSpan_built_ipHeader h hok]
  exact inetCsum_ipHeader_headerCsum _

/-- C is 0xFFFE less the predecessor of W, modulo 65535 (R112). -/
theorem toNat_headerCsum (o : BuildOperands) :
    o.headerCsum.toNat = 65534 - (wordSum (o.ipHeader 0) + 65534) % 65535 := by
  rw [BuildOperands.headerCsum, toNat_inetCsum_csum, toNat_inetCsum_fst_closed]
  omega

/-- The checksum depends on the addresses, the payload length and the identification modulo 65535 (R172). -/
theorem headerCsum_congr {o o' : BuildOperands} (hsrc : o.srcAddr = o'.srcAddr) (hdst : o.dstAddr = o'.dstAddr)
    (hlen : o.plLen = o'.plLen) (hid : o.pktId.toNat % 65535 = o'.pktId.toNat % 65535) :
    o.headerCsum = o'.headerCsum := by
  have htotal : o.total = o'.total := by rw [BuildOperands.total, hlen, BuildOperands.total]
  apply BitVec.eq_of_toNat_eq
  rw [toNat_headerCsum, toNat_headerCsum, wordSum_ipHeader, wordSum_ipHeader, hsrc, hdst, htotal]
  omega

/-- The checksum of the example's endpoints and payload length, as a function of the identification (R172). -/
theorem toNat_headerCsum_example {o : BuildOperands} (hsrc : o.srcAddr = 0x0A000001) (hdst : o.dstAddr = 0x0A000002)
    (hlen : o.plLen = 4) : o.headerCsum.toNat = 65534 - (0x9834 + o.pktId.toNat + 65534) % 65535 := by
  have hW : wordSum (o.ipHeader 0) = 0x9834 + o.pktId.toNat := by
    rw [wordSum_ipHeader, hsrc, hdst, BuildOperands.total, hlen]
    simp only [show wordSum (bytesBe32 0x0A000001) = 0x0A01 from by decide,
      show wordSum (bytesBe32 0x0A000002) = 0x0A02 from by decide, BitVec.reduceToNat, Nat.reduceAdd]
    omega
  rw [toNat_headerCsum, hW]

/-- Settles O30: the checksum bytes are `headerCsum`'s, which 65535 more in the identification leaves as it is. -/
theorem identificationChecksumPeriod : Obligations.IdentificationChecksumPeriod := by
  refine ⟨fun s t s' t' h hok h' hok' hsrc hdst hlen hid => ?period, fun s t h hok hsrc hdst hlen => ?examples⟩
  case period =>
    exact (built_checksumPair h hok (headerCsum_congr hsrc hdst hlen hid)).trans (built_checksumPair h' hok' rfl).symm
  case examples =>
    have hC := toNat_headerCsum_example hsrc hdst hlen
    refine ⟨fun hid => built_checksumPair h hok (c := 0x67CB) ?_, fun hid => built_checksumPair h hok (c := 0x67CA) ?_,
      fun hid => built_checksumPair h hok (c := 0x67C9) ?_, fun hid => built_checksumPair h hok (c := 0x67CB) ?_⟩ <;>
      exact BitVec.eq_of_toNat_eq (hC.trans (by rw [hid]; rfl))

end Sys2Proof.Machine
end

section
/-! PROOF. The status codes of 60_exceptions.md: the codes each command can produce (R202) and the failure PARSE
reports (R206). -/

namespace Sys2Proof.Machine

/-! ### The code a command reports -/

/-- The code a command completes with: the first of its failures, and OK where it has none. -/
def State.reportedCode (s : State) : Instr → StatusCode
  | .csum => if s.bufSize < s.csumOperands.base.toNat + s.csumOperands.len.toNat then .range else .ok
  | .parse => (s.parseFailure s.parseOperands).getD .ok
  | .build => (s.buildFailure s.buildOperands).getD .ok

/-- Every command completes, with ERR the code it reports (R210). -/
theorem exec_err_eq_reportedCode (i : Instr) (s : State) :
    ∃ t, exec i s = .next t ∧ t.status.err = s.reportedCode i := by
  cases i with
  | csum =>
    obtain ⟨hin, hx⟩ | ⟨hout, hx⟩ := exec_csum_cases s
    · exact ⟨_, hx, (if_neg (Nat.not_lt.2 hin)).symm⟩
    · exact ⟨_, hx, (if_pos hout).symm⟩
  | parse =>
    obtain ⟨hpass, hx⟩ | ⟨c, hfail, hx⟩ := exec_parse_cases s
    · exact ⟨_, hx, by rw [State.reportedCode, hpass]; rfl⟩
    · exact ⟨_, hx, by rw [State.reportedCode, hfail]; rfl⟩
  | build =>
    obtain ⟨hpass, hx⟩ | ⟨c, hfail, hx⟩ := exec_build_cases s
    · exact ⟨_, hx, by rw [State.reportedCode, hpass]; rfl⟩
    · exact ⟨_, hx, by rw [State.reportedCode, hfail]; rfl⟩

/-! ### The first failure of PARSE -/

/-- The report of R206 as one chain of tests on the numbers the frame holds, with OK where all of them pass. -/
theorem parseFailure_getD_ok (s : State) (o : ParseOperands) :
    (s.parseFailure o).getD .ok =
      if s.bufSize < o.base.toNat + o.len.toNat then StatusCode.range
      else if o.len.toNat < 20 then .truncated
      else if (s.frameByte o 0).toNat / 16 ≠ 4 then .notIpv4
      else if (s.frameByte o 9).toNat ≠ 17 then .notUdp
      else if o.len.toNat < 4 * ((s.frameByte o 0).toNat % 16) + 8 then .truncated
      else .ok := by
  have hregion : (!s.spanInBuf o.base.toNat o.len.toNat) = true ↔ s.bufSize < o.base.toNat + o.len.toNat := by
    rw [Bool.not_eq_true', ← Bool.not_eq_true, spanInBuf_iff, Nat.not_le]
  rw [State.parseFailure, State.frameOffset, frameHeaderLen_eq]
  simp only [hregion, ne_eq, frameVersion_eq_four_iff, eq_udpProtocol_iff]
  split_ifs <;> rfl

/-- Settles O15: PARSE completes with the code it reports, and that is the chain of `parseFailure_getD_ok`. -/
theorem parseReportsFirstFailure : Obligations.ParseReportsFirstFailure := by
  intro s o b
  obtain ⟨t, ht, herr⟩ := exec_err_eq_reportedCode .parse s
  exact ⟨t, ht, herr.trans (parseFailure_getD_ok s o)⟩

/-! ### The codes of each command -/

/-- The rows of R202 for the three commands, as the obligation lists them. -/
def commandCodes : Instr → List StatusCode
  | .csum => [.ok, .range]
  | .parse => [.ok, .range, .truncated, .notIpv4, .notUdp]
  | .build => [.ok, .range, .tooBig, .size, .afNoSupport]

/-- No command reports a code outside its row of the table. -/
theorem reportedCode_mem_commandCodes (i : Instr) (s : State) : s.reportedCode i ∈ commandCodes i := by
  cases i with
  | csum => rw [State.reportedCode]; split_ifs <;> decide
  | parse =>
    rw [State.reportedCode]
    cases h : s.parseFailure s.parseOperands with
    | none => decide
    | some c => rcases parseFailure_code h with rfl | rfl | rfl | rfl <;> decide
  | build =>
    rw [State.reportedCode]
    cases h : s.buildFailure s.buildOperands with
    | none => decide
    | some c => rcases buildFailure_code h with rfl | rfl | rfl | rfl <;> decide

/-- Reset, with a CSUM span at address 0. -/
def csumExample (len : Word) : State := { State.reset with csumOps := { base := 0, len := len } }

/-- Reset, with a frame of `len` bytes at address 0 whose bytes 0 and 9 are given. -/
def parseExample (versionIhl protocol : Byte) (len : Word) : State :=
  { State.reset with parseOps := { base := 0, len := len }, buf := [(0, versionIhl), (9, protocol)] }

/-- Reset, with a BUILD of this capacity, payload length and source address family. -/
def buildExample (cap plLen : Word) (af : BitVec 2) : State :=
  { State.reset with buildOps := { State.reset.buildOps with cap := cap, plLen := plLen, srcAf := af } }

/-- Every code in a command's row of the table arises; each example passes the tests before its own. -/
theorem exists_reportedCode_eq {i : Instr} {c : StatusCode} (hc : c ∈ commandCodes i) :
    ∃ s : State, s.reportedCode i = c := by
  cases i with
  | csum =>
    obtain rfl | rfl : c = .ok ∨ c = .range := by simpa [commandCodes] using hc
    · exact ⟨csumExample 0x10000, by decide⟩
    · exact ⟨csumExample 0x10001, by decide⟩
  | parse =>
    obtain rfl | rfl | rfl | rfl | rfl :
        c = .ok ∨ c = .range ∨ c = .truncated ∨ c = .notIpv4 ∨ c = .notUdp := by simpa [commandCodes] using hc
    · exact ⟨parseExample 0x45 17 28, by decide⟩
    · exact ⟨parseExample 0x45 17 0x10001, by decide⟩
    · exact ⟨parseExample 0x45 17 27, by decide⟩
    · exact ⟨parseExample 0x65 17 28, by decide⟩
    · exact ⟨parseExample 0x45 6 28, by decide⟩
  | build =>
    obtain rfl | rfl | rfl | rfl | rfl :
        c = .ok ∨ c = .range ∨ c = .tooBig ∨ c = .size ∨ c = .afNoSupport := by simpa [commandCodes] using hc
    · exact ⟨buildExample 28 0 0, by decide⟩
    · exact ⟨buildExample 0x10001 0 0, by decide⟩
    · exact ⟨buildExample 0x10000 65508 0, by decide⟩
    · exact ⟨buildExample 27 0 0, by decide⟩
    · exact ⟨buildExample 28 0 1, by decide⟩

/-- Settles O7: ERR is the reported code, which ranges over exactly the command's row of the table; an invalid word runs
no command. -/
theorem codesEachCommandProduces : Obligations.CodesEachCommandProduces := by
  refine ⟨fun i s => ?within, fun i c hc => ?arises, fun s w hinv hturn => ?invalid⟩
  case within =>
    obtain ⟨t, ht, herr⟩ := exec_err_eq_reportedCode i s
    exact ⟨t, ht, herr ▸ reportedCode_mem_commandCodes i s⟩
  case arises =>
    obtain ⟨s, hs⟩ := exists_reportedCode_eq (i := i) hc
    obtain ⟨t, ht, herr⟩ := exec_err_eq_reportedCode i s
    exact ⟨s, t, ht, herr.trans hs⟩
  case invalid => exact ⟨_, (step_of_engine hturn).trans (runWord_invalid hinv s), rfl⟩

end Sys2Proof.Machine
end

section
/-! PROOF. Reset and hazards of 70_reset_and_hazards.md: the registers an assertion of reset leaves, and the accesses
that are not performed while reset is asserted (R230). -/

namespace Sys2Proof.Machine

/-! ### The reset input -/

/-- The reset values of the registers but CAPS (R22 to R48). -/
theorem readReg_reset {r : Reg} (h : r ≠ .caps) : State.reset.readReg r = 0 := by
  cases r with
  | caps => exact absurd rfl h
  | _ => decide

/-- An assertion of reset gives every register but CAPS its reset value. -/
theorem readReg_assertReset (s : State) {r : Reg} (h : r ≠ .caps) :
    s.assertReset.readReg r = State.reset.readReg r := by
  cases r with
  | caps => exact absurd rfl h
  | _ => rfl

/-- What a bus access that is not performed leaves while reset is asserted: a host program that was running has
faulted. -/
def State.accessDropped (s : State) : State :=
  match s.host with
  | .running => s.pop.hostFaults .accessInReset
  | .faulted _ => s.pop

theorem accessDropped_cases (s : State) :
    s.accessDropped = s.pop ∨ s.accessDropped = s.pop.hostFaults .accessInReset := by
  unfold State.accessDropped
  cases s.host with
  | running => exact .inr rfl
  | faulted c => exact .inl rfl

theorem sameBlock_accessDropped (s : State) : SameBlock s s.accessDropped := by
  rcases accessDropped_cases s with h | h <;> rw [h] <;> exact sameBlock_host s _ _ _ _ _

theorem responses_accessDropped (s : State) : s.accessDropped.responses = s.responses := by
  rcases accessDropped_cases s with h | h <;> rw [h] <;> rfl

theorem hostAccess_inReset {s : State} (h : s.inReset = true) (f : State → Host.Outcome State Fault Refusal) :
    s.hostAccess f = .next s.accessDropped := by
  cases hh : s.host <;> simp [State.hostAccess, State.accessDropped, h, hh]

theorem hostPoll_inReset {s : State} (h : s.inReset = true) : s.hostPoll = .next s.accessDropped := by
  cases hh : s.host <;> simp [State.hostPoll, State.accessDropped, h, hh]

/-- While reset is asserted, every event that leaves the reset input alone is an access that is not performed. -/
theorem hostStep_inReset {s : State} {e : HostEvent} (h : s.inReset = true) (ha : e ≠ .resetAssert)
    (hr : e ≠ .resetRelease) : s.hostStep e = .next s.accessDropped := by
  cases e with
  | regRead | regWrite | bufRead | bufWrite => rw [State.hostStep, hostAccess_inReset h]
  | wait => exact hostPoll_inReset h
  | resetAssert => exact absurd rfl ha
  | resetRelease => exact absurd rfl hr

theorem sameRegisters_pop_releaseReset (s : State) : SameRegisters s s.pop.releaseReset :=
  ⟨rfl, rfl, rfl, rfl, rfl, rfl, rfl, rfl, rfl⟩

/-- Settles O52: an assertion leaves the reset values, an access in reset is dropped, and a release only lowers the
reset input. -/
theorem resetClearsRegisters : Obligations.ResetClearsRegisters := by
  refine ⟨fun s hturn => ?assertion, fun s e hturn hin ha hr => ?access, fun s hturn => ?release⟩
  case assertion =>
    have hstep : step s = .next s.pop.assertReset := step_of_host hturn
    exact ⟨_, hstep, fun _ hr => (readReg_assertReset s.pop hr).trans (readReg_reset hr),
      capsWord_congr (step_addrBits hstep), rfl, rfl, rfl⟩
  case access =>
    have hstep : step s = .next s.accessDropped := (step_of_host hturn).trans (hostStep_inReset hin ha hr)
    exact ⟨_, hstep, sameBlock_accessDropped s, responses_accessDropped s⟩
  case release =>
    have hstep : step s = .next s.pop.releaseReset := step_of_host hturn
    exact ⟨_, hstep, sameRegisters_pop_releaseReset s, rfl, rfl, rfl⟩

end Sys2Proof.Machine
end

section
/-! PROOF. The invariant of the block: it holds at power-on, every step keeps it, and so the latched copy of the
operands equals the registers on every run (R51). -/

namespace Sys2Proof.Machine

section Kept

variable {s t : State}

/-! ### What keeps the invariant -/

/-- The engine is Idle while reset is asserted, so a running command is out of reset. -/
theorem State.Inv.outOfReset_of_busy (h : s.Inv) {l : Latch} (hl : s.phase = .busy l) : s.inReset = false := by
  by_contra hr
  have hidle : s.phase = .idle := (congrArg State.phase (h.resetHeld (by simpa using hr))).symm
  rw [hl] at hidle
  cases hidle

/-- States of the same block differ at most in the model's own fields. -/
theorem SameBlock.eq (hs : SameBlock s t) :
    t = { s with
      left := t.left, delays := t.delays, host := t.host, pending := t.pending, responses := t.responses
      freeCount := t.freeCount } := by
  obtain ⟨⟨haddr, hctrl, hstatus, hcsumOps, hcsumRes, hparseOps, hparseRes, hbuildOps, htxLen⟩, hbuf, hphase, hin⟩ := hs
  rw [← haddr, ← hctrl, ← hstatus, ← hcsumOps, ← hcsumRes, ← hparseOps, ← hparseRes, ← hbuildOps, ← htxLen, ← hbuf,
    ← hphase, ← hin]

/-- What an event leaves alone stays as the invariant has it; in reset the count of accesses must stay as well. -/
theorem State.Inv.of_sameBlock (h : s.Inv) (hs : SameBlock s t) (hleft : s.inReset = true → t.left = s.left) :
    t.Inv := by
  rw [hs.eq]
  refine { h with resetHeld := fun hr => ?_ }
  rw [hleft hr]
  exact congrArg (fun u : State => { u with
    delays := t.delays, host := t.host, pending := t.pending, responses := t.responses
    freeCount := t.freeCount }) (h.resetHeld hr)

theorem State.Inv.complete (h : s.Inv) (hr : s.inReset = false) {op : BitVec 4} {c : StatusCode}
    (hc : c ∈ codesOf op) : (s.complete op c).Inv :=
  { h with
    latchCopies := fun _ hl => by cases hl
    busyNotDone := fun hb => by cases hb
    resetHeld := fun hin => absurd hin (by simp [hr])
    errOfLastOp := hc }

theorem State.Inv.setCsum (h : s.Inv) (hr : s.inReset = false) {acc result : Half}
    (hpair : acc = 0 ∧ result = 0 ∨ (acc ≠ 0 ∧ result = ~~~acc)) : (s.setCsum acc result).Inv :=
  { h with
    resetHeld := fun hin => absurd hin (by simp [hr])
    checksumPair := hpair.imp_left fun ⟨ha, hres⟩ => by rw [State.setCsum_csumRes, ha, hres] }

/-- PARSE's results: valid ones whose payload view lies in the buffer, or the cleared ones. -/
theorem State.Inv.setParse (h : s.Inv) (hr : s.inReset = false) {r : ParseResults} {valid : Bool}
    (hcleared : valid = false → r = Machine.parseCleared) (hview : r.plBase.toNat + r.plLen.toNat ≤ s.bufSize) :
    (s.setParse r valid).Inv :=
  { h with
    resetHeld := fun hin => absurd hin (by simp [hr])
    parseCleared := hcleared
    viewInside := hview }

theorem State.Inv.setTxLen (h : s.Inv) (hr : s.inReset = false) {v : Word}
    (hv : v = 0 ∨ (28 ≤ v.toNat ∧ v.toNat ≤ 65535)) : (s.setTxLen v).Inv :=
  { h with
    resetHeld := fun hin => absurd hin (by simp [hr])
    txLenRange := hv }

/-- A write of a span inside the buffer. -/
theorem State.Inv.writeSpan (h : s.Inv) (hr : s.inReset = false) {a : Nat} {bs : List Byte}
    (hin : a + bs.length ≤ s.bufSize) : State.Inv { s with buf := s.buf.writeSpan a bs } :=
  { h with
    bufSorted := Memory.wf_writeSpan _ _ _ h.bufSorted
    bufInside := Memory.bounded_writeSpan h.bufInside hin
    resetHeld := fun hin => absurd hin (by simp [hr]) }

/-- Operand registers written while the engine is Idle, where no latched copy can differ from them. -/
theorem State.Inv.withOperands (h : s.Inv) (hr : s.inReset = false) (hidle : s.phase = .idle) (co : CsumOperands)
    (po : ParseOperands) (bo : BuildOperands) :
    State.Inv { s with csumOps := co, parseOps := po, buildOps := bo } :=
  { h with
    latchCopies := fun l hl => by rw [show s.phase = .busy l from hl] at hidle; cases hidle
    resetHeld := fun hin => absurd hin (by simp [hr]) }

/-! ### Completions -/

/-- Every word's opcode bits allow BADCMD (R92). -/
theorem badCmd_mem_codesOf (op : BitVec 4) : StatusCode.badCmd ∈ codesOf op := by
  rw [codesOf]; split_ifs <;> decide

theorem State.Inv.exec_csum (h : s.Inv) (hr : s.inReset = false) (hx : exec .csum s = .next t) : t.Inv := by
  obtain ⟨-, hx'⟩ | ⟨-, hx'⟩ := exec_csum_cases s <;> obtain rfl := exec_next_unique hx hx'
  · exact (h.setCsum hr (.inr ⟨inetCsum_fst_ne_zero _, inetCsum_snd _⟩)).complete hr (by decide)
  · exact (h.setCsum hr (.inl ⟨rfl, rfl⟩)).complete hr (by decide)

theorem State.Inv.exec_parse (h : s.Inv) (hr : s.inReset = false) (hx : exec .parse s = .next t) : t.Inv := by
  obtain ⟨hpass, hx'⟩ | ⟨c, hfail, hx'⟩ := exec_parse_cases s <;> obtain rfl := exec_next_unique hx hx'
  · obtain ⟨hspan, -, -, -, hoff⟩ := (parseFailure_eq_none_iff s _).1 hpass
    refine (h.setParse hr (valid := true) (fun hv => by cases hv) ?view).complete hr (by decide)
    rw [toNat_parseFields_plBase hpass, toNat_parseFields_plLen]
    omega
  · refine (h.setParse hr (fun _ => rfl) (Nat.zero_le _)).complete hr ?code
    rcases parseFailure_code hfail with rfl | rfl | rfl | rfl <;> decide

/-- TX_LEN holds the frame's length, which passed the test against 65535 (R167). -/
theorem State.BuildOk.toNat_total (h : s.BuildOk) :
    (BitVec.ofNat 32 s.buildOperands.total).toNat = 28 + s.buildOperands.plLen.toNat := by
  have hlengths := h.lengths
  exact (BitVec.toNat_ofNat _ _).trans (Nat.mod_eq_of_lt (by rw [BuildOperands.total]; omega))

/-- A BUILD that passes its tests is a write of its frame, of TX_LEN and of PKT_ID in a state that is Idle. -/
theorem complete_writeFrame (s : State) (o : BuildOperands) (op : BitVec 4) (c : StatusCode) :
    (s.writeFrame o).complete op c =
      { (((
          { s with buf := s.buf.writeSpan o.base.toNat (o.frame (s.buf.readSpan o.plBase.toNat o.plLen.toNat)) } :
          State).setTxLen (BitVec.ofNat 32 o.total)).complete op c) with
        csumOps := s.csumOps, parseOps := s.parseOps, buildOps := { s.buildOps with pktId := o.pktId + 1 } } := by
  simp only [State.complete, State.writeFrame, State.setTxLen]

theorem State.Inv.exec_build (h : s.Inv) (hr : s.inReset = false) (hx : exec .build s = .next t) : t.Inv := by
  obtain ⟨hpass, hx'⟩ | ⟨c, hfail, hx'⟩ := exec_build_cases s <;> obtain rfl := exec_next_unique hx hx'
  · have hok := (buildFailure_eq_none_iff s).1 hpass
    have htotal := hok.toNat_total
    obtain ⟨hout, -, hlen, hcap, -⟩ := hok
    rw [complete_writeFrame]
    refine State.Inv.withOperands (State.Inv.complete (State.Inv.setTxLen (h.writeSpan hr ?inside) hr ?len) hr
      (by decide)) hr rfl _ _ _
    case inside => rw [length_frame, Memory.length_readSpan]; omega
    case len => exact .inr (by rw [htotal]; omega)
  · refine (h.setTxLen hr (.inl rfl)).complete hr ?code
    rcases buildFailure_code hfail with rfl | rfl | rfl | rfl <;> decide

theorem State.Inv.exec (h : s.Inv) (hr : s.inReset = false) {i : Instr} (hx : exec i s = .next t) : t.Inv := by
  cases i with
  | csum => exact h.exec_csum hr hx
  | parse => exact h.exec_parse hr hx
  | build => exact h.exec_build hr hx

/-! ### Events of the outside world -/

/-- The reset values of ERR and LAST_OP (R23). -/
theorem resetErr_mem_codesOf : State.reset.status.err ∈ codesOf State.reset.status.lastOp := by decide

theorem State.Inv.assertReset (h : s.Inv) : s.assertReset.Inv := by
  rw [assertReset_eq]
  exact {
    bufSorted := wf_abortCommand h.bufSorted
    bufInside := bounded_abortCommand h.bufInside
    latchCopies := fun _ hl => by cases hl
    busyNotDone := fun hb => by cases hb
    resetHeld := fun _ => rfl
    checksumPair := .inl rfl
    parseCleared := fun _ => rfl
    viewInside := Nat.zero_le _
    txLenRange := .inl rfl
    errOfLastOp := resetErr_mem_codesOf }

theorem State.Inv.releaseReset (h : s.Inv) : s.releaseReset.Inv :=
  { h with resetHeld := fun hin => by cases hin }

theorem State.Inv.accept (h : s.Inv) (hr : s.inReset = false) (w : Word) : (s.accept w).Inv :=
  { h with
    latchCopies := fun l hl => by cases hl; rfl
    busyNotDone := fun _ => rfl
    resetHeld := fun hin => absurd hin (by simp [hr]) }

/-- A change of CTRL, DONE or OVR that does not set DONE. -/
theorem State.Inv.withFlags (h : s.Inv) (hr : s.inReset = false) (ctrl : Ctrl) {done : Bool} (ovr : Bool)
    (hdone : s.status.done = false → done = false) :
    State.Inv { s with ctrl := ctrl, status := { s.status with done := done, ovr := ovr } } :=
  { h with
    busyNotDone := fun hb => hdone (h.busyNotDone hb)
    resetHeld := fun hin => absurd hin (by simp [hr]) }

theorem State.Inv.writeOffset (h : s.Inv) (hr : s.inReset = false) (off : BitVec 8) (v : Word) :
    (s.writeOffset off v).Inv := by
  rcases writeOffset_cases s off v with he | ⟨-, he⟩ | ⟨-, he⟩ | ⟨-, he, -⟩ | ⟨-, -, he⟩ |
    ⟨hidle, r, -, -, he⟩ <;> rw [he]
  · exact h
  · exact h.withFlags hr (Ctrl.ofWord v) s.status.ovr id
  · exact h.withFlags hr s.ctrl (s.status.ovr && !v.getLsbD 2) (fun hd => by rw [hd]; rfl)
  · exact h.withFlags hr s.ctrl true id
  · exact h.accept hr v
  · rw [storeOperand_eq]
    exact h.withOperands hr ((isBusy_eq_false_iff s).1 hidle) _ _ _

/-- An aligned access that starts in the buffer ends in it: BUF_SIZE is a multiple of its width (R3, R64). -/
theorem add_bytes_le_bufSize {w : Width} {a : Nat} (ha : a < s.bufSize) (hal : a % w.bytes = 0) :
    a + w.bytes ≤ s.bufSize := by
  have hdvd : 2 ^ 6 ∣ s.bufSize := pow_dvd_pow 2 s.addrBits.six_le
  cases w <;> simp only [Width.bytes] at hal ⊢ <;> omega

theorem State.Inv.hostStep (h : s.Inv) {e : HostEvent} (hx : s.hostStep e = .next t) : t.Inv := by
  have hpop : s.pop.Inv := h.of_sameBlock (sameBlock_host s _ _ _ _ _) fun _ => rfl
  rcases hostStep_cases hx with ⟨rfl, rfl⟩ | ⟨rfl, rfl⟩ | ⟨ha, hre, hs⟩ | ⟨off, v, rfl, -, hr, rfl⟩ |
    ⟨w, a, v, rfl, -, hr, ha, hal, -, rfl⟩
  · exact hpop.assertReset
  · exact hpop.releaseReset
  · refine h.of_sameBlock hs fun hr => ?_
    rw [hostStep_inReset hr ha hre] at hx
    obtain rfl := Host.Outcome.next.inj hx
    rcases accessDropped_cases s with he | he <;> rw [he] <;> rfl
  · have htick : s.pop.tick.Inv := h.of_sameBlock (sameBlock_host s _ _ _ _ _) fun hin => by simp [hr] at hin
    refine (htick.writeOffset hr off v).of_sameBlock (sameBlock_host _ _ _ _ _ _) fun _ => rfl
  · have hwrite := h.writeSpan hr (bs := leBytes w.bytes v) (by rw [length_leBytes]; exact add_bytes_le_bufSize ha hal)
    exact hwrite.of_sameBlock (sameBlock_host _ _ _ _ _ _) fun hin => by simp [hr] at hin

end Kept

/-- Settles O58: a completion comes out of reset and keeps the invariant with what it writes, and so does each event of
the outside world. -/
theorem stepKeepsInvariant : Obligations.StepKeepsInvariant := by
  intro s t h hstep
  have hrunning {w : Word} (hturn : s.turn = .engine w) : s.inReset = false := by
    obtain ⟨l, hl, -⟩ := (turn_engine_iff s w).1 hturn
    exact h.outOfReset_of_busy hl
  rcases step_cases hstep with ⟨w, i, hturn, -, hx⟩ | ⟨w, hturn, -, rfl⟩ | ⟨e, -, hx⟩ | ⟨-, rfl⟩
  · exact h.exec (hrunning hturn) hx
  · exact h.complete (hrunning hturn) (badCmd_mem_codesOf _)
  · exact h.hostStep hx
  · exact h

/-! ### Runs from power-on -/

theorem inv_powerOn (bits : AddrBits) {m : Memory} (program : List HostEvent) (delays : List Nat) (hm : m.wf = true)
    (hin : ∀ c ∈ m, c.1 < 2 ^ bits.val) : (State.powerOn bits m program delays).Inv where
  bufSorted := hm
  bufInside := hin
  latchCopies := fun _ hl => by cases hl
  busyNotDone := fun hb => by cases hb
  resetHeld := fun hr => by cases hr
  checksumPair := .inl rfl
  parseCleared := fun _ => rfl
  viewInside := Nat.zero_le _
  txLenRange := .inl rfl
  errOfLastOp := resetErr_mem_codesOf

/-- Settles O57: State.reset is a power-on in the reference configuration with nothing lined up. -/
theorem invariantAtPowerOn : Obligations.InvariantAtPowerOn :=
  ⟨inv_powerOn Config.referenceAddrBits [] [] rfl (by simp),
    fun bits _ program delays hm hin => inv_powerOn bits program delays hm hin⟩

/-- The invariant holds wherever steps lead from a state that meets it. -/
theorem State.Inv.of_reaches {s t : State} (h : s.Inv) (hreach : Reaches s t) : t.Inv := by
  induction hreach with
  | refl => exact h
  | step _ hstep ih => exact stepKeepsInvariant _ _ ih hstep

/-- The operands a command reads are those in the registers (R51, R71). -/
theorem State.Inv.operands_eq {s : State} (h : s.Inv) :
    s.csumOperands = s.csumOps ∧ s.parseOperands = s.parseOps ∧ s.buildOperands = s.buildOps := by
  cases hphase : s.phase with
  | idle => simp only [State.csumOperands, State.parseOperands, State.buildOperands, hphase, and_self]
  | busy l =>
    have hl := h.latchCopies l hphase
    rw [State.csumOperands, State.parseOperands, State.buildOperands, hphase, hl, State.latchOf, State.latchedOperands]
    rcases decode l.word with _ | (_ | _ | _) <;> exact ⟨rfl, rfl, rfl⟩

/-- Settles O59: what the invariant says of the latch and of DONE, on every run from power-on. -/
theorem latchedCopyEqualsRegisters : Obligations.LatchedCopyEqualsRegisters := by
  intro bits m program delays s hm hin hreach
  have hinv := (inv_powerOn bits program delays hm hin).of_reaches hreach
  obtain ⟨hcsum, hparse, hbuild⟩ := hinv.operands_eq
  exact ⟨hcsum, hparse, hbuild, fun l hl =>
    ⟨hinv.busyNotDone ((isBusy_iff s).2 ⟨l, hl⟩), congrArg Latch.ops (hinv.latchCopies l hl)⟩⟩

end Sys2Proof.Machine
end

section
/-! PROOF. The three commands as functions of what they name: what a completion records (R210), the seed of the checksum
(R118), what a successful BUILD leaves (R160, R164, R169), and the operands and bytes an outcome depends on (R55, R115,
R232). -/

namespace Sys2Proof.Machine

/-! ### The record of a completion -/

/-- PARSE reports in RX_VALID whether it succeeded (R141). -/
theorem exec_parse_rxValid {s t : State} (hx : exec .parse s = .next t) :
    t.status.rxValid = true ↔ t.status.err = .ok := by
  obtain ⟨-, hx'⟩ | ⟨c, hfail, hx'⟩ := exec_parse_cases s <;> obtain rfl := exec_next_unique hx hx'
  · exact iff_of_true rfl rfl
  · refine iff_of_false (by simp) ?_
    rcases parseFailure_code hfail with rfl | rfl | rfl | rfl <;> simp

/-- No other command writes RX_VALID. -/
theorem exec_rxValid {s t : State} {i : Instr} (hi : i ≠ .parse) (hx : exec i s = .next t) :
    t.status.rxValid = s.status.rxValid := by
  cases i with
  | csum => obtain ⟨-, hx'⟩ | ⟨-, hx'⟩ := exec_csum_cases s <;> obtain rfl := exec_next_unique hx hx' <;> rfl
  | parse => exact absurd rfl hi
  | build => obtain ⟨-, hx'⟩ | ⟨c, -, hx'⟩ := exec_build_cases s <;> obtain rfl := exec_next_unique hx hx' <;> rfl

/-- Settles O6: `exec_completes` for a command, `State.complete` for an invalid word. -/
theorem completionRecordsTheCommand : Obligations.CompletionRecordsTheCommand := by
  intro s w hturn
  obtain ⟨i, hi⟩ | ⟨e, he⟩ := decode_cases w
  · obtain ⟨t, hx, hphase, hdone, hlast, hovr, hctrl, -⟩ := exec_completes i s
    rw [encode_of_decode hi] at hlast
    refine ⟨t, (step_of_engine hturn).trans ((runWord_ok hi s).trans hx), hphase, hdone, hlast, hovr, hctrl, ?irq,
      fun hinv => absurd hi (hinv i), fun hp => ?parse, fun hp => ?other⟩
    case irq => rw [State.irq, hctrl, hdone, Bool.and_true]
    case parse =>
      obtain rfl : i = .parse := Except.ok.inj (hi.symm.trans hp)
      exact exec_parse_rxValid hx
    case other => exact exec_rxValid (fun h => hp (h ▸ hi)) hx
  · have hinv : ∀ i, decode w ≠ .ok i := by simp [he]
    have hstep := (step_of_engine hturn).trans (runWord_invalid hinv s)
    exact ⟨_, hstep, rfl, rfl, rfl, rfl, rfl, Bool.and_true _, fun _ => rfl, fun hp => absurd hp (hinv _), fun _ => rfl⟩

/-! ### The seed 0 -/

/-- A word that is W = 0 adds nothing, so the accumulator stays 0. -/
theorem csumLoop_zero_of_wordSum_eq_zero {b : List Byte} (h : wordSum b = 0) : csumLoop 0 b = 0 := by
  induction b using wordSum.induct with
  | case1 => rfl
  | case2 b0 =>
    rw [wordSum] at h
    simp [csumLoop, toNat_be16, foldCarry, h]
  | case3 b0 b1 rest ih =>
    obtain ⟨hword, hrest⟩ := Nat.add_eq_zero_iff.1 h
    rw [csumLoop, toNat_be16, hword]
    exact ih hrest

/-- The accumulator leaves 0 at the first nonzero word, and from there the sum is that of `csumLoop_spec`. -/
theorem csumLoop_zero_spec {b : List Byte} (h : 0 < wordSum b) :
    1 ≤ csumLoop 0 b ∧ csumLoop 0 b ≤ 65535 ∧ csumLoop 0 b % 65535 = wordSum b % 65535 := by
  induction b using wordSum.induct with
  | case1 => cases h
  | case2 b0 =>
    have hb := b0.isLt
    rw [wordSum] at h ⊢
    simp only [csumLoop, toNat_be16, foldCarry, BitVec.toNat_ofNat, BitVec.ofNat_eq_ofNat]
    omega
  | case3 b0 b1 rest ih =>
    have hw := (be16 b0 b1).isLt
    have hword := toNat_be16 b0 b1
    rw [wordSum] at h ⊢
    have hfold : foldCarry (0 + (be16 b0 b1).toNat) = (be16 b0 b1).toNat := by simp only [foldCarry]; omega
    rw [csumLoop, hfold]
    by_cases hzero : (be16 b0 b1).toNat = 0
    · have hrest := ih (by omega)
      rw [hzero]
      omega
    · have hrest := csumLoop_spec rest (acc := (be16 b0 b1).toNat) (by omega) (by omega)
      omega

/-- Settles O13: the two sums agree once the accumulator has left 0, and the first word of a header is 0x4500. -/
theorem seedZeroRelation : Obligations.SeedZeroRelation := by
  refine ⟨fun b => ⟨fun hzero => ⟨csumLoop_zero_of_wordSum_eq_zero hzero, ?_⟩, fun hpos => ?_⟩, fun o c => ?header⟩
  · rw [inetCsum_snd_eq_zero_iff, hzero]
  · obtain ⟨hlow, hhigh, hmod⟩ := csumLoop_zero_spec hpos
    exact eq_toNat_inetCsum_fst hlow hhigh hmod
  case header => rw [wordSum_ipHeader]; omega

/-! ### A BUILD that completes with OK -/

theorem complete_writeFrame_txLen (s : State) (o : BuildOperands) (op : BitVec 4) (c : StatusCode) :
    ((s.writeFrame o).complete op c).txLen = BitVec.ofNat 32 o.total := State.writeFrame_txLen s o

/-- Settles O20: the frame, its length and the counter are what `writeFrame` writes. -/
theorem buildCompletesWhenChecksPass : Obligations.BuildCompletesWhenChecksPass := by
  intro s h
  have hx := exec_build_ok ((buildFailure_eq_none_iff s).2 h)
  rw [complete_writeFrame] at hx
  exact ⟨_, _, _, hx, h.toNat_total, BitVec.toNat_add s.buildOperands.pktId 1⟩

/-- Settles O25: the payload stands in the frame after the 28 header bytes. -/
theorem buildCopiesPayload : Obligations.BuildCopiesPayload := by
  intro s t h hok k hk
  rw [Nat.add_assoc, read_built h hok (28 + k) (by omega), getElem_frame_payload _ _ k (by simpa using hk),
    Memory.getElem_readSpan]

/-- Settles O26: the one span written is the frame's. -/
theorem buildWritesOnlyTheFrame : Obligations.BuildWritesOnlyTheFrame := by
  intro s t h hok a ha
  obtain ⟨-, rfl⟩ := exec_build_inv h hok
  rw [State.complete_buf, State.writeFrame_buf, Memory.read_writeSpan_outside]
  rw [← Bool.not_eq_true, inSpan_iff] at ha
  rw [length_frame, Memory.length_readSpan]
  omega

/-! ### What an outcome depends on -/

section Congr

variable {s s' : State} (haddr : s.addrBits = s'.addrBits)
include haddr

/-- Two CSUMs with the same size, operands and span bytes have the same results and ERR. -/
theorem exec_csum_congr (hops : s.csumOperands = s'.csumOperands)
    (hread : ∀ k < s.csumOperands.len.toNat,
      s.buf.read (s.csumOperands.base.toNat + k) = s'.buf.read (s.csumOperands.base.toNat + k)) :
    ∃ acc result code, exec .csum s = .next ((s.setCsum acc result).complete 1 code) ∧
      exec .csum s' = .next ((s'.setCsum acc result).complete 1 code) := by
  have hsize : s.bufSize = s'.bufSize := congrArg (2 ^ AddrBits.val ·) haddr
  obtain ⟨hin, hx⟩ | ⟨hout, hx⟩ := exec_csum_cases s
  · refine ⟨_, _, _, hx, ?_⟩
    rw [hops, hsize] at hin
    rw [Memory.readSpan_congr hread, hops]
    exact exec_csum_ok hin
  · rw [hops, hsize] at hout
    exact ⟨_, _, _, hx, exec_csum_range hout⟩

/-- The outcome of BUILD's tests depends on the size and the operands. -/
theorem buildFailure_congr (o : BuildOperands) : s.buildFailure o = s'.buildFailure o := by
  have hspan (b n : Nat) : s.spanInBuf b n = s'.spanInBuf b n := by
    rw [State.spanInBuf, State.spanInBuf, State.bufSize, State.bufSize, haddr]
  rw [State.buildFailure, State.buildFailure, hspan, hspan]

/-- Two BUILDs with the same size, operands and payload bytes fail with the same code, or write the same frame. -/
theorem exec_build_congr (hops : s.buildOperands = s'.buildOperands)
    (hread : ∀ k < s.buildOperands.plLen.toNat,
      s.buf.read (s.buildOperands.plBase.toNat + k) = s'.buf.read (s.buildOperands.plBase.toNat + k)) :
    (∃ code, code ≠ .ok ∧ exec .build s = .next ((s.setTxLen 0).complete 3 code) ∧
      exec .build s' = .next ((s'.setTxLen 0).complete 3 code)) ∨
    (exec .build s = .next ((s.writeFrame s.buildOperands).complete 3 .ok) ∧
      exec .build s' = .next ((s'.writeFrame s.buildOperands).complete 3 .ok) ∧
      ∀ k < (BitVec.ofNat 32 s.buildOperands.total).toNat,
        ((s.writeFrame s.buildOperands).complete 3 .ok).buf.read (s.buildOperands.base.toNat + k) =
          ((s'.writeFrame s.buildOperands).complete 3 .ok).buf.read (s.buildOperands.base.toNat + k)) := by
  have hfail : s.buildFailure s.buildOperands = s'.buildFailure s'.buildOperands :=
    hops ▸ buildFailure_congr haddr s.buildOperands
  obtain ⟨hnone, hx⟩ | ⟨c, hsome, hx⟩ := exec_build_cases s
  · refine .inr ⟨hx, hops ▸ exec_build_ok (hfail.symm.trans hnone), fun k hk => ?_⟩
    have hlen (p : Memory) : k < (s.buildOperands.frame
        (p.readSpan s.buildOperands.plBase.toNat s.buildOperands.plLen.toNat)).length := by
      rw [BitVec.toNat_ofNat] at hk
      rw [length_frame, Memory.length_readSpan]
      exact Nat.lt_of_lt_of_le hk (Nat.mod_le _ _)
    rw [State.complete_buf, State.complete_buf, State.writeFrame_buf, State.writeFrame_buf,
      Memory.read_writeSpan_inside _ _ _ k (hlen _),
      Memory.read_writeSpan_inside _ _ _ k (hlen _)]
    simp only [Memory.readSpan_congr hread]
  · refine .inl ⟨c, ?_, hx, exec_build_fail (hfail.symm.trans hsome)⟩
    rcases buildFailure_code hsome with rfl | rfl | rfl | rfl <;> simp

end Congr

/-- Byte `k` of a span is a byte of the span. -/
theorem inSpan_base_add {base len k : Nat} (hk : k < len) : inSpan base len (base + k) = true :=
  (inSpan_iff _ _ _).2 ⟨Nat.le_add_right _ _, Nat.add_lt_add_left hk _⟩

/-- Settles O33: each command's outcome is one function of its operands and its span. -/
theorem commandsReadOnlyTheirSpans : Obligations.CommandsReadOnlyTheirSpans := by
  intro i s s' haddr hcsum hparse hbuild hread
  cases i with
  | csum =>
    obtain ⟨acc, result, code, hx, hx'⟩ := exec_csum_congr haddr (hcsum rfl) fun k hk =>
      hread _ (List.mem_singleton.2 rfl) _ (inSpan_base_add hk)
    exact ⟨_, _, hx, hx', rfl, fun _ => rfl, nofun, nofun⟩
  | parse =>
    obtain ⟨r, valid, code, hx, hx'⟩ := exec_parse_congr haddr (hparse rfl) fun k _ hk =>
      hread _ (List.mem_singleton.2 rfl) _ (inSpan_base_add hk)
    exact ⟨_, _, hx, hx', rfl, nofun, fun _ => ⟨rfl, rfl⟩, nofun⟩
  | build =>
    obtain ⟨code, hcode, hx, hx'⟩ | ⟨hx, hx', hframe⟩ := exec_build_congr haddr (hbuild rfl) fun k hk =>
      hread _ (List.mem_singleton.2 rfl) _ (inSpan_base_add hk)
    · exact ⟨_, _, hx, hx', rfl, nofun, nofun, fun _ =>
        ⟨rfl, fun hok => absurd hok hcode, fun k hk => absurd hk (Nat.not_lt_zero k)⟩⟩
    · refine ⟨_, _, hx, hx', rfl, nofun, nofun, fun _ => ⟨?_, fun _ => rfl, ?_⟩⟩
      · rw [complete_writeFrame_txLen, complete_writeFrame_txLen]
      · rw [complete_writeFrame_txLen]
        exact hframe

end Sys2Proof.Machine
end

section
/-! PROOF. The encodings: the command words (R91), the status codes (R201), the register map (R20) and STATUS (R23); and
which agent a step moves (R209, R240). -/

namespace Sys2Proof.Machine

/-! ### The command words and the status codes -/

/-- Settles O1: a word decodes to a command exactly when it is that command's encoding. -/
theorem commandWordsDecode : Obligations.CommandWordsDecode :=
  fun w => ⟨decode_eq_ok_iff w .csum, decode_eq_ok_iff w .parse, decode_eq_ok_iff w .build⟩

/-- Settles O2: the decoder inverts the encoder, and the table words are the encoder's. -/
theorem decodeInvertsEncode : Obligations.DecodeInvertsEncode :=
  ⟨fun i _ => decode_encode i, fun _ _ => encode_of_decode, rfl, rfl, rfl, rfl⟩

/-- Settles O5: the nine values, and the class of each. -/
theorem statusCodeValuesAndClasses : Obligations.StatusCodeValuesAndClasses := by
  refine ⟨rfl, rfl, rfl, rfl, rfl, rfl, rfl, rfl, rfl, fun c => ?transient, fun c => ?usage, fun c => ?programming⟩
  all_goals cases c <;> decide

/-! ### Which agent moves -/

/-- The completion of a latched command, when it is the engine's turn (R209, R240). -/
theorem step_command {s : State} {l : Latch} {i : Instr} (hl : s.phase = .busy l) (hturn : s.left = 0 ∨ s.pending = [])
    (hi : decode l.word = .ok i) : step s = exec i s :=
  (step_of_engine ((turn_engine_iff s l.word).2 ⟨l, hl, rfl, hturn⟩)).trans (runWord_ok hi s)

/-- A table word that decodes is the word that the machine latches for it. -/
theorem decode_of_decodeTableWord {w : Nat} {i : Instr} (h : decodeTableWord 32 w = some i) :
    decode (BitVec.ofNat 32 (w % 2 ^ 32)) = .ok i := by
  simp only [decodeTableWord] at h
  rw [if_pos (Nat.mod_lt w (by decide))] at h
  split at h
  · next hd => rw [hd, Option.some.inj h]
  · cases h

/-- Settles O4: the four kinds of turn. -/
theorem stepRunsDecodedCommand : Obligations.StepRunsDecodedCommand := by
  refine ⟨fun s l i hl hturn hi => step_command hl hturn hi, fun s e rest hpending hturn => ?host,
    fun s hidle hpending => step_of_idle ((turn_idle_iff s).2 ⟨hidle, hpending⟩), fun s w i hi => ?fetched⟩
  case host => exact step_of_host ((turn_host_iff s e).2 ⟨⟨rest, hpending⟩, hturn⟩)
  case fetched => exact step_command rfl (.inl rfl) (decode_of_decodeTableWord hi)

/-! ### The register map -/

theorem extractLsb'_eq_zero_of_getLsbD {x : Word} {i n : Nat} (h : ∀ j < n, x.getLsbD (i + j) = false) :
    x.extractLsb' i n = 0 := by
  refine BitVec.eq_of_getLsbD_eq fun j hj => ?_
  rw [BitVec.getLsbD_extractLsb', h j hj]
  simp

/-- CTRL reads its two flags in bits 0 and 1, and 0 above them (R22). -/
theorem ctrlWord_fields (c : Ctrl) :
    c.toWord.getLsbD 0 = c.ie ∧ c.toWord.getLsbD 1 = c.trace ∧ c.toWord.extractLsb' 2 30 = 0 := by
  refine ⟨?ie, ?trace, extractLsb'_eq_zero_of_getLsbD fun j _ => ?above⟩
  all_goals rw [getLsbD_ctrlWord]
  case ie | trace => simp
  case above => simp; omega

/-- TX_AF reads its two fields in bits [1:0] and [9:8] (R46). -/
theorem txAfWord_fields (s : State) :
    (s.readReg .txAf).extractLsb' 0 2 = s.buildOps.srcAf ∧ (s.readReg .txAf).extractLsb' 8 2 = s.buildOps.dstAf := by
  constructor <;> refine BitVec.eq_of_getLsbD_eq fun j hj => ?_
  all_goals
    simp only [State.readReg, BitVec.getLsbD_extractLsb', BitVec.getLsbD_or, BitVec.getLsbD_setWidth,
      BitVec.getLsbD_shiftLeft]
  · grind
  · have hsrc : s.buildOps.srcAf.getLsbD (8 + j) = false := BitVec.getLsbD_of_ge _ _ (by omega)
    grind

/-- Settles O34: the value at an offset is that of its register. -/
theorem registerMapReads : Obligations.RegisterMapReads := by
  refine ⟨atOffset_offset, fun s => ?values, fun r => ?readOnly, fun r => ?others⟩
  case values =>
    obtain ⟨hie, htrace, habove⟩ := ctrlWord_fields s.ctrl
    obtain ⟨hsrc, hdst⟩ := txAfWord_fields s
    have hread := readOffset_offset s
    have hctrl : s.readOffset 0x04 = s.ctrl.toWord := hread .ctrl
    have haf : s.readOffset 0x60 = s.readReg .txAf := hread .txAf
    rw [hctrl, haf]
    exact ⟨hread .caps, rfl, hie, htrace, habove, hread .status, hread .cmd, hread .csBase, hread .csLen,
      hread .csResult, hread .csAcc, hread .rxBase, hread .rxLen, hread .rxSrcAddr, hread .rxSrcPort,
      hread .rxDstAddr, hread .rxDstPort, hread .rxPlBase, hread .rxPlLen, hread .txBase, hread .txCap,
      hread .txPlBase, hread .txPlLen, hread .txSrcAddr, hread .txSrcPort, hread .txDstAddr, hread .txDstPort, hsrc,
      hdst, hread .pktId, hread .txLen⟩
  case readOnly => cases r <;> decide
  case others =>
    exact ⟨⟨eq_ctrl_of_access_rw, fun h => h ▸ rfl⟩, ⟨eq_status_of_access_w1c, fun h => h ▸ rfl⟩,
      ⟨eq_cmd_of_access_wo, fun h => h ▸ rfl⟩⟩

/-! ### STATUS -/

/-- The four single bits of STATUS (R23). -/
theorem statusWord_flags (s : State) :
    s.statusWord.getLsbD 0 = s.isBusy ∧ s.statusWord.getLsbD 1 = s.status.done ∧
      s.statusWord.getLsbD 2 = s.status.ovr ∧ s.statusWord.getLsbD 3 = s.status.rxValid := by
  refine ⟨?_, ?_, ?_, ?_⟩ <;> rw [getLsbD_statusWord] <;> simp

/-- The two 4-bit fields of STATUS (R23). -/
theorem statusWord_codes (s : State) :
    s.statusWord.extractLsb' 8 4 = s.status.err.code ∧ s.statusWord.extractLsb' 12 4 = s.status.lastOp := by
  constructor <;> refine BitVec.eq_of_getLsbD_eq fun j hj => ?_
  all_goals rw [BitVec.getLsbD_extractLsb', getLsbD_statusWord]
  · grind
  · have herr : s.status.err.code.getLsbD (12 + j - 8) = false := BitVec.getLsbD_of_ge _ _ (by omega)
    grind

/-- STATUS reads 0 in bits [7:4] and from bit 16 on (R23). -/
theorem statusWord_reserved (s : State) :
    s.statusWord.extractLsb' 4 4 = 0 ∧ s.statusWord.extractLsb' 16 16 = 0 := by
  constructor <;> refine extractLsb'_eq_zero_of_getLsbD fun j hj => ?_
  all_goals rw [getLsbD_statusWord]
  · grind
  · have herr : s.status.err.code.getLsbD (16 + j - 8) = false := BitVec.getLsbD_of_ge _ _ (by omega)
    have hlast : s.status.lastOp.getLsbD (16 + j - 12) = false := BitVec.getLsbD_of_ge _ _ (by omega)
    grind

/-- Settles O36: the fields of STATUS, and BUSY as the phase. -/
theorem statusWordFields : Obligations.StatusWordFields := by
  intro s
  obtain ⟨hbusy, hdone, hovr, hvalid⟩ := statusWord_flags s
  obtain ⟨herr, hlast⟩ := statusWord_codes s
  obtain ⟨hlow, hhigh⟩ := statusWord_reserved s
  exact ⟨hbusy, hdone, hovr, hvalid, hlow, herr, hlast, hhigh, isBusy_iff s⟩

end Sys2Proof.Machine
end

section
/-! PROOF. The accesses of 20_memory.md: bus errors (R61, R64, R203), the byte lanes of a BUF access (R65), the reads of
a running BUILD's output span (R237) and the hazard writes (R236). -/

namespace Sys2Proof.Machine

/-! ### Bus errors -/

/-- What an access that gets the error response `r` leaves: the block as it was, and a host program that has stopped. -/
def State.busError (s : State) (r : BusResponse) : State := (s.pop.tick.respond r).hostFaults .busError

theorem busError_spec (s : State) (r : BusResponse) :
    SameBlock s (s.busError r) ∧ (s.busError r).irq = s.irq ∧ (s.busError r).host = .faulted .busError ∧
      (s.busError r).responses = r :: s.responses :=
  ⟨sameBlock_host s _ _ _ _ _, rfl, rfl, rfl⟩

theorem not_regLegal {w : Width} {off : BitVec 8} (h : w ≠ .w32 ∨ off.toNat % 4 ≠ 0) : ¬ regLegal w off = true := by
  rw [regLegal_iff, Classical.not_and_iff_not_or_not]
  exact h

/-- Settles O42: the four refused accesses have one effect, `State.busError`. -/
theorem busErrorsChangeNothing : Obligations.BusErrorsChangeNothing := by
  refine ⟨fun s w off h hbad => ?regRead, fun s w off v h hbad => ?regWrite, fun s w a h ha hmis => ?bufRead,
    fun s w a v h ha hmis => ?bufWrite⟩
  case regRead =>
    exact ⟨_, (step_regRead h).trans (hostRegRead_illegal _ (not_regLegal hbad)), busError_spec s (.readError 0)⟩
  case regWrite =>
    exact ⟨_, (step_regWrite h).trans (hostRegWrite_illegal _ (not_regLegal hbad)), busError_spec s .writeError⟩
  case bufRead =>
    exact ⟨_, (step_bufRead h).trans (hostBufRead_misaligned s.pop.tick ha hmis), busError_spec s (.readError 0)⟩
  case bufWrite =>
    exact ⟨_, (step_bufWrite h).trans (hostBufWrite_misaligned s.pop.tick ha hmis), busError_spec s .writeError⟩

/-! ### BUF reads -/

/-- The bus data of a BUF read (R65). -/
def State.readData (s : State) (w : Width) (a : Nat) : Word := leWord (s.hostReadBytes a w.bytes)

/-- An aligned BUF read inside the aperture uses up free values at most, and answers its data. -/
theorem step_bufRead_aligned {s : State} {w : Width} {a : Nat} (h : s.Accesses (.bufRead w a)) (ha : a < s.bufSize)
    (hal : a % w.bytes = 0) :
    step s = .next ((s.pop.tick.useFree (s.hostReadFree a w.bytes)).respond (.data (s.readData w a))) :=
  (step_bufRead h).trans (hostBufRead_aligned s.pop.tick ha hal)

/-- Lane k carries byte k as it stands, or a free value (R64, R237). -/
theorem readData_lane (s : State) (w : Width) (a : Nat) {k : Nat} (hk : k < w.bytes) :
    (s.readData w a).extractLsb' (8 * k) 8 =
      if s.outputByte (a + k) then Config.freeByte (s.freeCount + k) else s.buf.read (a + k) := by
  have hlen := length_hostReadBytes s a w.bytes
  rw [State.readData, leWord_byte _ k (by rwa [hlen]) (by rw [hlen]; exact width_bytes_le w)]
  simp only [State.hostReadBytes, List.getElem_map, List.getElem_range]

theorem toNat_readData_lt (s : State) (w : Width) (a : Nat) : (s.readData w a).toNat < 2 ^ (8 * w.bytes) := by
  have h := toNat_leWord_lt (s.hostReadBytes a w.bytes)
  rwa [length_hostReadBytes] at h

/-- A read that touches no output byte uses no free value. -/
theorem hostReadFree_eq_zero {s : State} {a n : Nat} (h : ∀ k, k < n → s.outputByte (a + k) = false) :
    s.hostReadFree a n = 0 := by
  rw [State.hostReadFree, if_neg]
  simpa using h

/-- A read that touches an output byte uses one free value for each of its bytes. -/
theorem hostReadFree_eq_self {s : State} {a n k : Nat} (hk : k < n) (h : s.outputByte (a + k) = true) :
    s.hostReadFree a n = n := by
  rw [State.hostReadFree, if_pos]
  simpa using ⟨k, hk, h⟩

/-- Settles O43: no byte of the access is free, so the lanes carry the buffer and no free value is used. -/
theorem bufReadLanes : Obligations.BufReadLanes := by
  intro s w a h ha hal hout
  refine ⟨s.readData w a, ?step, fun k hk => ?lane, toNat_readData_lt s w a⟩
  case step =>
    rw [step_bufRead_aligned h ha hal, hostReadFree_eq_zero hout]
    rfl
  case lane => rw [readData_lane s w a hk, hout k hk, if_neg Bool.false_ne_true]

/-- A running BUILD's output byte is one of the span (TX_BASE, TX_CAP) (R237). -/
theorem outputByte_build_iff {s : State} {word : Word} {o : BuildOperands}
    (hphase : s.phase = .busy { word := word, ops := .build o }) (b : Nat) :
    s.outputByte b = true ↔ o.base.toNat ≤ b ∧ b < o.base.toNat + o.cap.toNat := by
  rw [State.outputByte, hphase]
  exact inSpan_iff _ _ _

/-- Settles O45: the output bytes of the running BUILD are the free lanes of the read. -/
theorem busyReadOfOutputSpanIsFree : Obligations.BusyReadOfOutputSpanIsFree := by
  intro s w a word o h ha hal hphase
  have hout := outputByte_build_iff hphase
  refine ⟨_, s.readData w a, step_bufRead_aligned h ha hal, sameBlock_host s _ _ _ _ _, rfl, fun k hk => ?lane, ?count⟩
  case lane => simp only [readData_lane s w a hk, hout]
  case count =>
    rintro ⟨k, hk, hin⟩
    rw [hostReadFree_eq_self hk ((hout _).2 hin)]
    rfl

/-! ### BUF writes -/

/-- What a BUF write leaves that is stored (R65). -/
def State.stored (s : State) (w : Width) (a : Nat) (v : Word) : State :=
  { s.pop.tick with buf := s.buf.writeSpan a (leBytes w.bytes v) }.respond .written

theorem step_bufWrite_free {s : State} {w : Width} {a : Nat} {v : Word} (h : s.Accesses (.bufWrite w a v))
    (ha : a < s.bufSize) (hal : a % w.bytes = 0) (hz : ∀ k, k < w.bytes → s.hazardByte (a + k) = false) :
    step s = .next (s.stored w a v) :=
  (step_bufWrite h).trans (hostBufWrite_free s.pop.tick ha hal hz)

/-- Byte k of the access holds lane k of the bus data. -/
theorem read_stored (s : State) (w : Width) (a : Nat) (v : Word) {k : Nat} (hk : k < w.bytes) :
    (s.stored w a v).buf.read (a + k) = v.extractLsb' (8 * k) 8 := by
  refine (Memory.read_writeSpan_inside s.buf (leBytes w.bytes v) a k (by rwa [length_leBytes])).trans ?_
  simp only [leBytes, List.getElem_map, List.getElem_range]

/-- Settles O44: the bytes of the access are stored, and no other is written. -/
theorem bufWriteLanes : Obligations.BufWriteLanes := by
  intro s w a v h ha hal hz
  refine ⟨(s.stored w a v).buf, step_bufWrite_free h ha hal hz, fun _ => read_stored s w a v, fun b hb => ?outside⟩
  apply Memory.read_writeSpan_outside
  rw [← Bool.not_eq_true, inSpan_iff] at hb
  rw [length_leBytes]
  omega

/-- Settles O46: the access touches a span of R236 exactly when one of its bytes is a hazard byte. -/
theorem hazardWriteFaults : Obligations.HazardWriteFaults := by
  intro s w a v l h ha hal hl touches hazard
  have hiff : hazard ↔ ∃ k, k < w.bytes ∧ s.hazardByte (a + k) = true := by
    obtain ⟨word, ops⟩ := l
    cases ops with
    | none => simp [hazard, State.hazardByte, hl]
    | csum o | parse o => simp [hazard, touches, State.hazardByte, hl, inSpan_iff]
    | build o => simp [hazard, touches, State.hazardByte, hl, inSpan_iff, and_or_left, exists_or]
  refine ⟨fun hhaz => ?faults, fun hfree => ?stores⟩
  case faults =>
    obtain ⟨k, hk, hz⟩ := hiff.1 hhaz
    exact (step_bufWrite h).trans (hostBufWrite_hazard s.pop.tick ha hal hk hz)
  case stores =>
    have hz : ∀ k, k < w.bytes → s.hazardByte (a + k) = false := fun k hk =>
      Bool.eq_false_iff.2 fun hz => hfree (hiff.2 ⟨k, hk, hz⟩)
    exact ⟨_, step_bufWrite_free h ha hal hz, rfl, fun k hk => read_stored s w a v hk⟩

end Sys2Proof.Machine
end

section
/-! PROOF. Host and engine: what an event of the outside world does to STATUS (R23, R204, R205) and to the packet
identifier (R47), and that a running command does not see it (R71, R75, R238). -/

namespace Sys2Proof.Machine

/-! ### STATUS -/

/-- What a legal REG write can do to STATUS: a write of STATUS, an overrun, an acceptance, or nothing. -/
theorem writeOffset_status_cases (s : State) (off : BitVec 8) (v : Word) :
    (s.writeOffset off v).status = s.status ∨
    (off = 0x08 ∧ (s.writeOffset off v).status =
      { s.status with done := s.status.done && !v.getLsbD 1, ovr := s.status.ovr && !v.getLsbD 2 }) ∨
    (∃ r : Reg, off = r.offset ∧ s.isBusy = true ∧ (r.access = .wo ∨ r.access = .rwGated) ∧
      (s.writeOffset off v).status = { s.status with ovr := true }) ∨
    (off = 0x0C ∧ s.isBusy = false ∧ (s.writeOffset off v).status = { s.status with done := false }) := by
  rcases writeOffset_cases s off v with he | ⟨-, he⟩ | ⟨hoff, he⟩ | ⟨hb, he, r, hoff, hr⟩ | ⟨hoff, hi, he⟩ |
    ⟨-, r, -, -, he⟩ <;> rw [he]
  · exact .inl rfl
  · exact .inl rfl
  · exact .inr (.inl ⟨hoff, rfl⟩)
  · exact .inr (.inr (.inl ⟨r, hoff, hb, hr, rfl⟩))
  · exact .inr (.inr (.inr ⟨hoff, hi, rfl⟩))
  · rw [storeOperand_eq]
    exact .inl rfl

/-- What an event of the outside world can do to STATUS. -/
theorem hostStep_status_cases {s t : State} {e : HostEvent} (hx : s.hostStep e = .next t) :
    (e = .resetAssert ∧ t.status = State.reset.status) ∨ t.status = s.status ∨
    (∃ v, e = .regWrite .w32 0x08 v ∧ t.status =
      { s.status with done := s.status.done && !v.getLsbD 1, ovr := s.status.ovr && !v.getLsbD 2 }) ∨
    (∃ (r : Reg) (v : Word), e = .regWrite .w32 r.offset v ∧ s.isBusy = true ∧
      (r.access = .wo ∨ r.access = .rwGated) ∧ t.status = { s.status with ovr := true }) ∨
    (∃ v, e = .regWrite .w32 0x0C v ∧ s.isBusy = false ∧ t.status = { s.status with done := false }) := by
  rcases hostStep_cases hx with ⟨rfl, rfl⟩ | ⟨rfl, rfl⟩ | ⟨-, -, hs⟩ | ⟨off, v, rfl, -, -, rfl⟩ |
    ⟨w, a, v, rfl, -, -, -, -, -, rfl⟩
  · exact .inl ⟨rfl, rfl⟩
  · exact .inr (.inl rfl)
  · exact .inr (.inl hs.status)
  · rcases writeOffset_status_cases s.pop.tick off v with he | ⟨rfl, he⟩ | ⟨r, rfl, hb, hr, he⟩ | ⟨rfl, hi, he⟩
    · exact .inr (.inl he)
    · exact .inr (.inr (.inl ⟨v, rfl, he⟩))
    · exact .inr (.inr (.inr (.inl ⟨r, v, rfl, hb, hr, he⟩)))
    · exact .inr (.inr (.inr (.inr ⟨v, rfl, hi, he⟩)))
  · exact .inr (.inl rfl)

/-- No event but an assertion of reset writes ERR, LAST_OP or RX_VALID. -/
theorem hostStep_report {s t : State} {e : HostEvent} (he : e ≠ .resetAssert) (hx : s.hostStep e = .next t) :
    t.status.err = s.status.err ∧ t.status.lastOp = s.status.lastOp ∧ t.status.rxValid = s.status.rxValid := by
  rcases hostStep_status_cases hx with ⟨h, -⟩ | h | ⟨v, -, h⟩ | ⟨r, v, -, -, -, h⟩ | ⟨v, -, -, h⟩
  · exact absurd h he
  all_goals rw [h]; exact ⟨rfl, rfl, rfl⟩

/-- Settles O50: an event but reset keeps the report, and of the completions only PARSE's writes RX_VALID. -/
theorem statusReportChangesOnlyAtCompletion : Obligations.StatusReportChangesOnlyAtCompletion := by
  intro s t hstep hreset
  rcases step_cases hstep with ⟨w, i, hturn, hi, hx⟩ | ⟨w, hturn, -, rfl⟩ | ⟨e, hturn, hx⟩ | ⟨-, rfl⟩
  · refine ⟨fun _ => ⟨w, hturn⟩, fun hne => ⟨w, hturn, ?_⟩⟩
    by_cases hp : i = .parse
    · rw [hi, hp]
    · exact absurd (exec_rxValid hp hx) hne
  · exact ⟨fun _ => ⟨w, hturn⟩, fun hne => absurd rfl hne⟩
  · obtain ⟨herr, hlast, hvalid⟩ := hostStep_report (fun he => hreset (he ▸ hturn)) hx
    exact ⟨fun hne => hne.elim (absurd herr) (absurd hlast), fun hne => absurd hvalid hne⟩
  · exact ⟨fun hne => hne.elim (absurd rfl) (absurd rfl), fun hne => absurd rfl hne⟩

/-- A completion sets DONE and keeps OVR (R210). -/
theorem step_engine_flags {s t : State} {w : Word} (hturn : s.turn = .engine w) (hstep : step s = .next t) :
    t.status.done = true ∧ t.status.ovr = s.status.ovr := by
  obtain ⟨u, hu, -, hdone, -, hovr, -⟩ := completionRecordsTheCommand s w hturn
  obtain rfl := Host.Outcome.next.inj (hstep.symm.trans hu)
  exact ⟨hdone, hovr⟩

/-- A flag does not read 0 and 1 at once. -/
theorem false_true_elim {b : Bool} {p : Prop} (hlow : b = false) (hhigh : b = true) : p :=
  absurd (hlow.symm.trans hhigh) Bool.false_ne_true

/-- Settles O51: a completion sets DONE and keeps OVR, and an event does to them what `hostStep_status_cases` lists. -/
theorem doneAndOverrunLifecycle : Obligations.DoneAndOverrunLifecycle := by
  refine ⟨fun s t hstep => ?lifecycle, fun s => Bool.and_eq_true_iff⟩
  cases hturn : s.turn with
  | engine w =>
    obtain ⟨hdone, hovr⟩ := step_engine_flags hturn hstep
    rw [hovr]
    exact ⟨fun _ _ => ⟨w, rfl⟩, fun _ h0 => false_true_elim h0 hdone, false_true_elim,
      fun h1 h0 => false_true_elim h0 h1⟩
  | idle =>
    rw [step_of_idle hturn] at hstep
    obtain rfl := Host.Outcome.next.inj hstep
    exact ⟨false_true_elim, fun h1 h0 => false_true_elim h0 h1, false_true_elim, fun h1 h0 => false_true_elim h0 h1⟩
  | host e =>
    rw [step_of_host hturn] at hstep
    rcases hostStep_status_cases hstep with ⟨rfl, h⟩ | h | ⟨v, rfl, h⟩ | ⟨r, v, rfl, hb, hr, h⟩ | ⟨v, rfl, hi, h⟩ <;>
      rw [h]
    · exact ⟨nofun, fun _ _ => .inr (.inr rfl), nofun, fun _ _ => .inr rfl⟩
    · exact ⟨false_true_elim, fun h1 h0 => false_true_elim h0 h1, false_true_elim, fun h1 h0 => false_true_elim h0 h1⟩
    · refine ⟨fun h0 h1 => ?_, fun h1 h0 => .inr (.inl ⟨v, rfl, ?_⟩), fun h0 h1 => ?_, fun h1 h0 => .inl ⟨v, rfl, ?_⟩⟩
      · simp [h0] at h1
      · simpa [h1] using h0
      · simp [h0] at h1
      · simpa [h1] using h0
    · exact ⟨false_true_elim, fun h1 h0 => false_true_elim h0 h1, fun _ _ => ⟨r, v, rfl, hb, hr⟩, nofun⟩
    · exact ⟨nofun, fun _ _ => .inl ⟨v, rfl, hi⟩, false_true_elim, fun h1 h0 => false_true_elim h0 h1⟩

/-! ### The packet identifier -/

theorem storeOperand_pktId {r : Reg} (hr : r ≠ .pktId) (s : State) (v : Word) :
    (s.storeOperand v r).buildOps.pktId = s.buildOps.pktId := by
  cases r with
  | pktId => exact absurd rfl hr
  | _ => rfl

/-- A legal REG write keeps PKT_ID, or is a write of it while Idle. -/
theorem writeOffset_pktId_cases (s : State) (off : BitVec 8) (v : Word) :
    (s.writeOffset off v).buildOps.pktId = s.buildOps.pktId ∨
    (off = 0x64 ∧ s.isBusy = false ∧ (s.writeOffset off v).buildOps.pktId = v.setWidth 16) := by
  rcases writeOffset_cases s off v with he | ⟨-, he⟩ | ⟨-, he⟩ | ⟨-, he, -⟩ | ⟨-, -, he⟩ |
    ⟨hi, r, hoff, -, he⟩ <;> rw [he]
  · exact .inl rfl
  · exact .inl rfl
  · exact .inl rfl
  · exact .inl rfl
  · exact .inl rfl
  · by_cases hr : r = .pktId
    · subst hr
      exact .inr ⟨hoff, hi, rfl⟩
    · exact .inl (storeOperand_pktId hr s v)

/-- A command keeps PKT_ID, or is a BUILD with OK and advances the one it read. -/
theorem exec_pktId_cases {s t : State} {i : Instr} (hx : exec i s = .next t) :
    t.buildOps.pktId = s.buildOps.pktId ∨
    (i = .build ∧ t.status.err = .ok ∧ t.buildOps.pktId = s.buildOperands.pktId + 1) := by
  cases i with
  | csum => obtain ⟨-, hx'⟩ | ⟨-, hx'⟩ := exec_csum_cases s <;> obtain rfl := exec_next_unique hx hx' <;> exact .inl rfl
  | parse =>
    obtain ⟨-, hx'⟩ | ⟨c, -, hx'⟩ := exec_parse_cases s <;> obtain rfl := exec_next_unique hx hx' <;> exact .inl rfl
  | build =>
    obtain ⟨-, hx'⟩ | ⟨c, -, hx'⟩ := exec_build_cases s <;> obtain rfl := exec_next_unique hx hx'
    · exact .inr ⟨rfl, rfl, rfl⟩
    · exact .inl rfl

/-- Settles O49: every other completion and event keeps PKT_ID. -/
theorem pktIdChangesOnlyByHostOrBuild : Obligations.PktIdChangesOnlyByHostOrBuild := by
  intro s t hstep hne
  rcases step_cases hstep with ⟨w, i, hturn, hi, hx⟩ | ⟨w, -, -, rfl⟩ | ⟨e, hturn, hx⟩ | ⟨-, rfl⟩
  · obtain hsame | ⟨rfl, hok, hid⟩ := exec_pktId_cases hx
    · exact absurd hsame hne
    · exact .inl ⟨w, hturn, hi, hok, hid⟩
  · exact absurd rfl hne
  · rcases hostStep_cases hx with ⟨rfl, rfl⟩ | ⟨-, rfl⟩ | ⟨-, -, hs⟩ | ⟨off, v, rfl, -, -, rfl⟩ |
      ⟨_, _, _, -, -, -, -, -, -, rfl⟩
    · exact .inr (.inr ⟨hturn, rfl⟩)
    · exact absurd rfl hne
    · exact absurd (congrArg BuildOperands.pktId hs.buildOps) hne
    · obtain hsame | ⟨rfl, hi, hid⟩ := writeOffset_pktId_cases s.pop.tick off v
      · exact absurd hsame hne
      · exact .inr (.inl ⟨v, hturn, hi, hid.trans (BitVec.setWidth_eq_extractLsb' (by decide))⟩)
    · exact absurd rfl hne
  · exact absurd rfl hne

/-! ### A running command -/

/-- What a running command can see, and the results it leaves to its completion, are the same in both states. -/
structure SameCommand (s t : State) : Prop where
  addrBits : t.addrBits = s.addrBits
  phase : t.phase = s.phase
  csumOps : t.csumOps = s.csumOps
  parseOps : t.parseOps = s.parseOps
  buildOps : t.buildOps = s.buildOps
  csumRes : t.csumRes = s.csumRes
  parseRes : t.parseRes = s.parseRes
  txLen : t.txLen = s.txLen
  err : t.status.err = s.status.err
  lastOp : t.status.lastOp = s.status.lastOp
  rxValid : t.status.rxValid = s.status.rxValid
  hazardBytes : ∀ b, s.hazardByte b = true → t.buf.read b = s.buf.read b

theorem SameBlock.sameCommand {s t : State} (h : SameBlock s t) : SameCommand s t :=
  ⟨h.addrBits, h.phase, h.csumOps, h.parseOps, h.buildOps, h.csumRes, h.parseRes, h.txLen,
    congrArg Status.err h.status, congrArg Status.lastOp h.status, congrArg Status.rxValid h.status,
    fun _ _ => by rw [h.buf]⟩

/-- A register write while Busy reaches CTRL, DONE and OVR at most. -/
theorem writeOffset_busy {s : State} (hb : s.isBusy = true) (off : BitVec 8) (v : Word) :
    SameCommand s (s.writeOffset off v) := by
  have hflags (ctrl : Ctrl) (done ovr : Bool) :
      SameCommand s { s with ctrl := ctrl, status := { s.status with done := done, ovr := ovr } } :=
    ⟨rfl, rfl, rfl, rfl, rfl, rfl, rfl, rfl, rfl, rfl, rfl, fun _ _ => rfl⟩
  rcases writeOffset_cases s off v with he | ⟨-, he⟩ | ⟨-, he⟩ | ⟨-, he, -⟩ | ⟨-, hi, -⟩ | ⟨hi, -⟩
  · rw [he]; exact hflags s.ctrl s.status.done s.status.ovr
  · rw [he]; exact hflags _ s.status.done s.status.ovr
  · rw [he]; exact hflags s.ctrl _ _
  · rw [he]; exact hflags s.ctrl s.status.done true
  all_goals exact false_true_elim hi hb

/-- No event but an assertion of reset is seen by a running command: a write of a byte it reads would have stopped the
machine (R236). -/
theorem hostStep_busy {s t : State} {e : HostEvent} (hb : s.isBusy = true) (he : e ≠ .resetAssert)
    (hx : s.hostStep e = .next t) : SameCommand s t := by
  rcases hostStep_cases hx with ⟨h, -⟩ | ⟨-, rfl⟩ | ⟨-, -, hs⟩ | ⟨off, v, -, -, -, rfl⟩ |
    ⟨w, a, v, -, -, -, -, -, hz, rfl⟩
  · exact absurd h he
  · exact ⟨rfl, rfl, rfl, rfl, rfl, rfl, rfl, rfl, rfl, rfl, rfl, fun _ _ => rfl⟩
  · exact hs.sameCommand
  · exact { writeOffset_busy (s := s.pop.tick) hb off v with }
  · refine ⟨rfl, rfl, rfl, rfl, rfl, rfl, rfl, rfl, rfl, rfl, rfl, fun b hhaz => ?_⟩
    apply Memory.read_writeSpan_outside
    by_contra hin
    rw [length_leBytes] at hin
    have hfree := hz (b - a) (by omega)
    rw [Nat.add_sub_cancel' (by omega)] at hfree
    exact false_true_elim hfree hhaz

/-- Settles O48: no result register is among what an event changes while Busy. -/
theorem resultsHoldUntilCompletion : Obligations.ResultsHoldUntilCompletion := by
  intro s t e hb hturn he hstep
  have h := hostStep_busy hb he ((step_of_host hturn).symm.trans hstep)
  obtain ⟨l, hl⟩ := (isBusy_iff s).1 hb
  exact ⟨(isBusy_iff t).2 ⟨l, h.phase.trans hl⟩, h.csumRes, h.parseRes, h.txLen,
    congrArg BuildOperands.pktId h.buildOps, h.err, h.lastOp, h.rxValid⟩

/-- The bytes of the spans a running command reads are hazard bytes, where the latch is that of its word (R236). -/
theorem State.Inv.hazardByte_of_readSpans {s : State} (h : s.Inv) {l : Latch} {i : Instr} (hl : s.phase = .busy l)
    (hi : decode l.word = .ok i) : ∀ p ∈ s.readSpans i, ∀ b, inSpan p.1 p.2 b = true → s.hazardByte b = true := by
  have hlatch := h.latchCopies l hl
  rw [State.latchOf, State.latchedOperands, hi] at hlatch
  rw [hlatch] at hl
  cases i with
  | csum | parse =>
    simp only [State.readSpans, State.csumOperands, State.parseOperands, State.hazardByte, hl, List.mem_singleton,
      forall_eq, imp_self, implies_true]
  | build =>
    simp only [State.readSpans, State.buildOperands, State.hazardByte, hl, List.mem_singleton, forall_eq]
    exact fun b hin => Bool.or_eq_true_iff.2 (.inl hin)

/-- Settles O47: the event leaves the operands and the bytes the command reads, so the outcome is the same, and what the
command does not write is the same as well. -/
theorem hostCannotChangeRunningCommand : Obligations.HostCannotChangeRunningCommand := by
  intro s t e l i hinv hl hi hturn he hstep
  have h := hostStep_busy ((isBusy_iff s).2 ⟨l, hl⟩) he ((step_of_host hturn).symm.trans hstep)
  have hread : ∀ p ∈ s.readSpans i, ∀ k < p.2, s.buf.read (p.1 + k) = t.buf.read (p.1 + k) := fun p hp k hk =>
    (h.hazardBytes _ (hinv.hazardByte_of_readSpans hl hi p hp _ (inSpan_base_add hk))).symm
  refine ⟨h.phase, ?_⟩
  cases i with
  | csum =>
    have hops : s.csumOperands = t.csumOperands := by simp only [State.csumOperands, h.phase, h.csumOps]
    obtain ⟨acc, result, code, hx, hx'⟩ := exec_csum_congr h.addrBits.symm hops (hread _ (List.mem_singleton.2 rfl))
    exact ⟨_, _, hx, hx', rfl, rfl, h.parseRes.symm, h.rxValid.symm, h.txLen.symm, h.buildOps.symm, nofun⟩
  | parse =>
    have hops : s.parseOperands = t.parseOperands := by simp only [State.parseOperands, h.phase, h.parseOps]
    obtain ⟨r, valid, code, hx, hx'⟩ := exec_parse_congr h.addrBits.symm hops fun k _ hk =>
      hread _ (List.mem_singleton.2 rfl) k hk
    exact ⟨_, _, hx, hx', rfl, h.csumRes.symm, rfl, rfl, h.txLen.symm, h.buildOps.symm, nofun⟩
  | build =>
    have hops : s.buildOperands = t.buildOperands := by simp only [State.buildOperands, h.phase, h.buildOps]
    obtain ⟨code, -, hx, hx'⟩ | ⟨hx, hx', hframe⟩ :=
      exec_build_congr h.addrBits.symm hops (hread _ (List.mem_singleton.2 rfl))
    · exact ⟨_, _, hx, hx', rfl, h.csumRes.symm, h.parseRes.symm, h.rxValid.symm, rfl, h.buildOps.symm,
        fun _ k hk => absurd hk (Nat.not_lt_zero k)⟩
    · refine ⟨_, _, hx, hx', rfl, h.csumRes.symm, h.parseRes.symm, h.rxValid.symm, ?txLen, ?operands, fun _ => ?frame⟩
      case txLen => rw [complete_writeFrame_txLen, complete_writeFrame_txLen]
      case operands => exact congrArg ({ · with pktId := s.buildOperands.pktId + 1 }) h.buildOps.symm
      case frame => rw [complete_writeFrame_txLen]; exact hframe

end Sys2Proof.Machine
end

section
/-! PROOF. Whole-machine rules: reset keeps the buffer (R231, R232), what stops the machine (R200), that a running
command completes (R240), and that the trace flag has no effect (R54, R216). -/

namespace Sys2Proof.Machine

/-! ### Reset and the buffer -/

/-- Settles O53: what `abortCommand` writes is the frame span of the running BUILD. -/
theorem resetKeepsBuffer : Obligations.ResetKeepsBuffer := by
  intro s t hturn hstep
  obtain rfl : s.pop.assertReset = t := Host.Outcome.next.inj ((step_of_host hturn).symm.trans hstep)
  refine ⟨fun a hout => ?buffer, rfl⟩
  change s.pop.abortCommand.buf.read a = s.buf.read a
  obtain he | ⟨w, o, hphase, hin, he⟩ := abortCommand_cases s.pop <;> rw [he]
  · rfl
  · have hframe := hout w o hphase
    apply Memory.read_writeSpan_outside
    have hsize : s.pop.bufSize = s.bufSize := rfl
    rw [length_freeBytes]
    omega

/-! ### What stops the machine -/

/-- A bus access is dropped, or performed with the event taken off the list and counted. -/
theorem hostAccess_eq_cases (s : State) (f : State → Host.Outcome State Fault Refusal) :
    s.hostAccess f = .next s.pop ∨ s.hostAccess f = .next (s.pop.hostFaults .accessInReset) ∨
      s.hostAccess f = f s.pop.tick := by
  unfold State.hostAccess
  cases s.host with
  | faulted c => exact .inl rfl
  | running => cases s.inReset with
    | true => exact .inr (.inl rfl)
    | false => exact .inr (.inr rfl)

/-- An access that goes on wherever it is performed goes on. -/
theorem hostAccess_goes_on {f : State → Host.Outcome State Fault Refusal} (s : State) (hf : ∀ u, ∃ t, f u = .next t) :
    ∃ t, s.hostAccess f = .next t := by
  obtain h | h | h := hostAccess_eq_cases s f
  · exact ⟨_, h⟩
  · exact ⟨_, h⟩
  · rw [h]; exact hf _

theorem hostRegRead_goes_on (w : Width) (off : BitVec 8) (u : State) : ∃ t, u.hostRegRead w off = .next t := by
  by_cases h : regLegal w off = true
  · exact ⟨_, hostRegRead_legal u h⟩
  · exact ⟨_, hostRegRead_illegal u h⟩

theorem hostRegWrite_goes_on (w : Width) (off : BitVec 8) (v : Word) (u : State) :
    ∃ t, u.hostRegWrite w off v = .next t := by
  by_cases h : regLegal w off = true
  · exact ⟨_, hostRegWrite_legal u h⟩
  · exact ⟨_, hostRegWrite_illegal u h⟩

theorem hostPoll_goes_on (s : State) : ∃ t, s.hostPoll = .next t := by
  unfold State.hostPoll
  split
  · exact ⟨_, rfl⟩
  · split_ifs <;> exact ⟨_, rfl⟩

/-- A BUF read goes on, or leaves the aperture. -/
theorem hostBufRead_outcome (u : State) (w : Width) (a : Nat) :
    (∃ t, u.hostBufRead w a = .next t) ∨ (u.bufSize ≤ a ∧ u.hostBufRead w a = .fault .noSuchAddress) := by
  unfold State.hostBufRead
  split_ifs with hout hal
  · exact .inr ⟨hout, rfl⟩
  all_goals exact .inl ⟨_, rfl⟩

/-- A hazard byte is one of a running command. -/
theorem isBusy_of_hazardByte {s : State} {b : Nat} (h : s.hazardByte b = true) : s.isBusy = true := by
  cases hphase : s.phase with
  | idle => simp [State.hazardByte, hphase] at h
  | busy l => exact (isBusy_iff s).2 ⟨l, hphase⟩

/-- A BUF write goes on, leaves the aperture, or is a hazard of a running command. -/
theorem hostBufWrite_outcome (u : State) (w : Width) (a : Nat) (v : Word) :
    (∃ t, u.hostBufWrite w a v = .next t) ∨ (u.bufSize ≤ a ∧ u.hostBufWrite w a v = .fault .noSuchAddress) ∨
      (a < u.bufSize ∧ u.isBusy = true ∧ u.hostBufWrite w a v = .fault .hazardWrite) := by
  unfold State.hostBufWrite
  split_ifs with hout hal hhaz
  · exact .inr (.inl ⟨hout, rfl⟩)
  · obtain ⟨k, -, hk⟩ := List.any_eq_true.1 hhaz
    exact .inr (.inr ⟨Nat.lt_of_not_le hout, isBusy_of_hazardByte hk, rfl⟩)
  all_goals exact .inl ⟨_, rfl⟩

/-- Event `e` stops the machine with fault `f`: a BUF write while a command is Busy (R236), or a BUF access outside the
aperture (log entry 10). -/
def StopsByHost (s : State) (e : HostEvent) (f : Fault) : Prop :=
  (f = .hazardWrite ∧ s.isBusy = true ∧ ∃ w a v, e = .bufWrite w a v ∧ a < s.bufSize) ∨
  (f = .noSuchAddress ∧ ((∃ w a, e = .bufRead w a ∧ s.bufSize ≤ a) ∨ ∃ w a v, e = .bufWrite w a v ∧ s.bufSize ≤ a))

/-- An event goes on, or is a BUF access that stops the machine. -/
theorem hostStep_outcome (s : State) (e : HostEvent) :
    (∃ t, s.hostStep e = .next t) ∨ ∃ f, s.hostStep e = .fault f ∧ StopsByHost s e f := by
  cases e with
  | resetAssert | resetRelease => exact .inl ⟨_, rfl⟩
  | wait => exact .inl (hostPoll_goes_on s)
  | regRead w off => exact .inl (hostAccess_goes_on s (hostRegRead_goes_on w off))
  | regWrite w off v => exact .inl (hostAccess_goes_on s (hostRegWrite_goes_on w off v))
  | bufRead w a =>
    rw [State.hostStep]
    obtain h | h | h := hostAccess_eq_cases s fun u => u.hostBufRead w a
    · exact .inl ⟨_, h⟩
    · exact .inl ⟨_, h⟩
    · rw [h]
      obtain hnext | ⟨hout, hfault⟩ := hostBufRead_outcome s.pop.tick w a
      · exact .inl hnext
      · exact .inr ⟨_, hfault, .inr ⟨rfl, .inl ⟨w, a, rfl, hout⟩⟩⟩
  | bufWrite w a v =>
    rw [State.hostStep]
    obtain h | h | h := hostAccess_eq_cases s fun u => u.hostBufWrite w a v
    · exact .inl ⟨_, h⟩
    · exact .inl ⟨_, h⟩
    · rw [h]
      obtain hnext | ⟨hout, hfault⟩ | ⟨hin, hb, hfault⟩ := hostBufWrite_outcome s.pop.tick w a v
      · exact .inl hnext
      · exact .inr ⟨_, hfault, .inr ⟨rfl, .inr ⟨w, a, v, rfl, hout⟩⟩⟩
      · exact .inr ⟨_, hfault, .inl ⟨rfl, hb, w, a, v, rfl, hin⟩⟩

/-- A step goes on, or the host's next event stops the machine. -/
theorem step_outcome (s : State) :
    (∃ t, step s = .next t) ∨ ∃ e f, s.turn = .host e ∧ step s = .fault f ∧ StopsByHost s e f := by
  cases hturn : s.turn with
  | engine w =>
    obtain ⟨t, ht, -⟩ := completionRecordsTheCommand s w hturn
    exact .inl ⟨t, ht⟩
  | idle => exact .inl ⟨s, step_of_idle hturn⟩
  | host e =>
    rw [step_of_host hturn]
    exact (hostStep_outcome s e).imp_right fun ⟨f, hf, hstop⟩ => ⟨e, f, rfl, hf, hstop⟩

/-- Settles O56: no step is a refusal, and a fault is one of `StopsByHost`. -/
theorem stopsOnlyOnHostErrors : Obligations.StopsOnlyOnHostErrors := by
  refine ⟨fun s f hf => ?faults, fun s r hr => ?refusals⟩
  case faults =>
    obtain ⟨t, ht⟩ | ⟨e, f', hturn, hf', hstop⟩ := step_outcome s
    · rw [ht] at hf; cases hf
    · obtain rfl := Host.Outcome.fault.inj (hf.symm.trans hf')
      rw [hturn]
      simpa only [StopsByHost, Turn.host.injEq] using hstop
  case refusals =>
    obtain ⟨t, ht⟩ | ⟨e, f, -, hf, -⟩ := step_outcome s
    · rw [ht] at hr; cases hr
    · rw [hf] at hr; cases hr

/-! ### A running command completes -/

/-- A register write while Busy does not change when the command completes. -/
theorem writeOffset_busy_left {s : State} (hb : s.isBusy = true) (off : BitVec 8) (v : Word) :
    (s.writeOffset off v).left = s.left := by
  rcases writeOffset_cases s off v with he | ⟨-, he⟩ | ⟨-, he⟩ | ⟨-, he, -⟩ | ⟨-, hi, -⟩ | ⟨hi, -⟩
  · exact congrArg State.left he
  · exact (congrArg State.left he :)
  · exact (congrArg State.left he :)
  · exact (congrArg State.left he :)
  · exact false_true_elim hi hb
  · exact false_true_elim hi hb

/-- The events lined up, and the accesses that come before the completion, are the same in both states. -/
def SameWaits (s t : State) : Prop := t.pending = s.pending ∧ t.left = s.left

theorem hostRegRead_waits {s t : State} {w : Width} {off : BitVec 8} (hx : s.hostRegRead w off = .next t) :
    SameWaits s t := by
  unfold State.hostRegRead at hx
  split_ifs at hx <;> obtain rfl := Host.Outcome.next.inj hx <;> exact ⟨rfl, rfl⟩

theorem hostRegWrite_waits {s t : State} {w : Width} {off : BitVec 8} {v : Word} (hb : s.isBusy = true)
    (hx : s.hostRegWrite w off v = .next t) : SameWaits s t := by
  unfold State.hostRegWrite at hx
  split_ifs at hx <;> obtain rfl := Host.Outcome.next.inj hx
  · exact ⟨(congrArg State.pending (writeOffset_eq s off v) :), writeOffset_busy_left hb off v⟩
  · exact ⟨rfl, rfl⟩

theorem hostBufRead_waits {s t : State} {w : Width} {a : Nat} (hx : s.hostBufRead w a = .next t) : SameWaits s t := by
  unfold State.hostBufRead at hx
  split_ifs at hx <;> obtain rfl := Host.Outcome.next.inj hx <;> exact ⟨rfl, rfl⟩

theorem hostBufWrite_waits {s t : State} {w : Width} {a : Nat} {v : Word} (hx : s.hostBufWrite w a v = .next t) :
    SameWaits s t := by
  unfold State.hostBufWrite at hx
  split_ifs at hx <;> obtain rfl := Host.Outcome.next.inj hx <;> exact ⟨rfl, rfl⟩

/-- A bus access takes its event off the list and does not put the completion off. -/
theorem hostAccess_progress {s t : State} {f : State → Host.Outcome State Fault Refusal}
    (hf : ∀ u, f s.pop.tick = .next u → SameWaits s.pop.tick u) (hx : s.hostAccess f = .next t) :
    t.pending = s.pending.tail ∧ t.left ≤ s.left := by
  obtain ⟨-, -, h⟩ | rfl | rfl := hostAccess_cases hx
  · obtain ⟨hpending, hleft⟩ := hf t h
    exact ⟨hpending, hleft ▸ Nat.sub_le _ _⟩
  · exact ⟨rfl, Nat.le_refl _⟩
  · exact ⟨rfl, Nat.le_refl _⟩

/-- While Busy an event goes off the list and does not put the completion off, or it is a poll that stays lined up and
is counted (R99, R240). -/
theorem hostStep_progress {s t : State} {e : HostEvent} (hb : s.isBusy = true) (he : e ≠ .resetAssert)
    (hx : s.hostStep e = .next t) :
    (t.pending = s.pending.tail ∧ t.left ≤ s.left) ∨ (t.pending = s.pending ∧ t.left = s.left - 1) := by
  cases e with
  | resetAssert => exact absurd rfl he
  | resetRelease =>
    obtain rfl := Host.Outcome.next.inj hx
    exact .inl ⟨rfl, Nat.le_refl _⟩
  | wait =>
    obtain rfl | rfl | ⟨-, rfl⟩ | ⟨-, rfl⟩ := hostPoll_cases hx
    · exact .inl ⟨rfl, Nat.le_refl _⟩
    · exact .inl ⟨rfl, Nat.le_refl _⟩
    · exact .inr ⟨rfl, rfl⟩
    · exact .inl ⟨rfl, Nat.sub_le _ _⟩
  | regRead w off =>
    exact .inl (hostAccess_progress (f := fun u => u.hostRegRead w off) (fun _ => hostRegRead_waits) hx)
  | regWrite w off v =>
    exact .inl (hostAccess_progress (f := fun u => u.hostRegWrite w off v) (fun _ => hostRegWrite_waits hb) hx)
  | bufRead w a =>
    exact .inl (hostAccess_progress (f := fun u => u.hostBufRead w a) (fun _ => hostBufRead_waits) hx)
  | bufWrite w a v =>
    exact .inl (hostAccess_progress (f := fun u => u.hostBufWrite w a v) (fun _ => hostBufWrite_waits) hx)

theorem run_succ_of_next {M : Host.Core} {s t : M.State} (h : M.step s = .next t) (k : Nat) :
    M.run (k + 1) s = M.run k t := by
  rw [Host.Core.run, h]

theorem run_one_of_fault {M : Host.Core} {s : M.State} {f : M.Fault} (h : M.step s = .fault f) :
    M.run 1 s = .fault f := by
  rw [Host.Core.run, h]

/-- After `k` steps the command of word `w` has completed, or the machine has stopped. -/
def EndsWithin (s : State) (w : Word) (k : Nat) : Prop :=
  (∃ t, Sys2Proof.core.run k s = .next t ∧ t.phase = .idle ∧ t.status.done = true ∧
    t.status.lastOp = w.extractLsb' 0 4) ∨
  ∃ r, Sys2Proof.core.run k s = .fault r

theorem EndsWithin.succ {s t : State} {w : Word} {k : Nat} (h : EndsWithin t w k) (hstep : step s = .next t) :
    EndsWithin s w (k + 1) := by
  rw [EndsWithin, run_succ_of_next (M := Sys2Proof.core) hstep]
  exact h

theorem endsWithin_one_of_engine {s : State} {w : Word} (hturn : s.turn = .engine w) : EndsWithin s w 1 := by
  obtain ⟨t, hstep, hidle, hdone, hlast, -⟩ := completionRecordsTheCommand s w hturn
  exact .inl ⟨t, run_succ_of_next (M := Sys2Proof.core) hstep 0, hidle, hdone, hlast⟩

/-- Settles O55: each event but a completion takes an event off the list or counts one access down. -/
theorem everyRunningCommandCompletes : Obligations.EveryRunningCommandCompletes := by
  intro s l hl hreset
  induction hn : s.pending.length + s.left using Nat.strong_induction_on generalizing s with
  | _ n ih =>
    change ∃ k, k ≤ n + 1 ∧ EndsWithin s l.word k
    cases hturn : s.turn with
    | idle => exact absurd (((turn_idle_iff s).1 hturn).1.symm.trans hl) nofun
    | engine w =>
      obtain ⟨l', hl', rfl, -⟩ := (turn_engine_iff s w).1 hturn
      obtain rfl : l = l' := Phase.busy.inj (hl.symm.trans hl')
      exact ⟨1, by omega, endsWithin_one_of_engine hturn⟩
    | host e =>
      obtain ⟨⟨rest, hpending⟩, hwait⟩ := (turn_host_iff s e).1 hturn
      have hleft : s.left ≠ 0 := hwait.resolve_left fun hidle => absurd (hidle.symm.trans hl) nofun
      have he : e ≠ .resetAssert := by
        rintro rfl
        exact hreset (hpending ▸ List.mem_cons_self)
      have hb : s.isBusy = true := (isBusy_iff s).2 ⟨l, hl⟩
      obtain ⟨t, hstep⟩ | ⟨_, f, -, hfault, -⟩ := step_outcome s
      · have hx : s.hostStep e = .next t := (step_of_host hturn).symm.trans hstep
        have hphase : t.phase = .busy l := (hostStep_busy hb he hx).phase.trans hl
        have hprogress : t.pending.length + t.left < n ∧ .resetAssert ∉ t.pending := by
          obtain ⟨hp, hless⟩ | ⟨hp, hless⟩ := hostStep_progress hb he hx <;> rw [hp]
          · rw [hpending, List.length_cons] at hn
            rw [hpending, List.tail_cons]
            exact ⟨by omega, fun hmem => hreset (hpending ▸ List.mem_cons_of_mem _ hmem)⟩
          · exact ⟨by omega, hreset⟩
        obtain ⟨k, hk, hends⟩ := ih _ hprogress.1 t hphase hprogress.2 rfl
        exact ⟨k + 1, by omega, EndsWithin.succ hends hstep⟩
      · exact ⟨1, by omega, .inr ⟨f, run_one_of_fault (M := Sys2Proof.core) hfault⟩⟩

/-! ### The trace flag -/

/-- An outcome with the trace flag of the state it goes on with cleared. -/
def clearTrace : Host.Outcome State Fault Refusal → Host.Outcome State Fault Refusal
  | .next s => .next (s.withTrace false)
  | .fault f => .fault f
  | .refused r => .refused r

theorem exists_next_of_clearTrace_eq {o : Host.Outcome State Fault Refusal} {t : State}
    (h : clearTrace o = clearTrace (.next t)) : ∃ t', o = .next t' ∧ t'.withTrace false = t.withTrace false := by
  cases o with
  | next t' => exact ⟨t', rfl, Host.Outcome.next.inj h⟩
  | fault f => cases h
  | refused r => cases h

/-- No command reads or writes CTRL. -/
theorem exec_withTrace (i : Instr) (s : State) (b : Bool) :
    clearTrace (exec i (s.withTrace b)) = clearTrace (exec i s) := by
  cases i with
  | csum =>
    obtain ⟨h, hx⟩ | ⟨h, hx⟩ := exec_csum_cases s
    · rw [hx, exec_csum_ok (s := s.withTrace b) h]; rfl
    · rw [hx, exec_csum_range (s := s.withTrace b) h]; rfl
  | parse =>
    obtain ⟨h, hx⟩ | ⟨c, h, hx⟩ := exec_parse_cases s
    · rw [hx, exec_parse_ok (s := s.withTrace b) h]; rfl
    · rw [hx, exec_parse_fail (s := s.withTrace b) h]; rfl
  | build =>
    obtain ⟨h, hx⟩ | ⟨c, h, hx⟩ := exec_build_cases s
    · rw [hx, exec_build_ok (s := s.withTrace b) h]; rfl
    · rw [hx, exec_build_fail (s := s.withTrace b) h]; rfl

theorem runWord_withTrace (w : Word) (s : State) (b : Bool) :
    clearTrace (runWord w (s.withTrace b)) = clearTrace (runWord w s) := by
  unfold runWord
  cases decode w with
  | ok i => exact exec_withTrace i s b
  | error e => rfl

theorem readOffset_withTrace {off : BitVec 8} (hoff : off ≠ 0x04) (s : State) (b : Bool) :
    (s.withTrace b).readOffset off = s.readOffset off := by
  unfold State.readOffset
  cases h : Reg.atOffset off with
  | none => rfl
  | some r =>
    cases r with
    | ctrl => exact absurd (atOffset_some h) hoff
    | _ => rfl

theorem writeReg_withTrace (s : State) (b : Bool) (v : Word) (r : Reg) :
    ((s.withTrace b).writeReg v r).withTrace false = (s.writeReg v r).withTrace false := by
  cases ha : r.access with
  | ro => rw [writeReg_ro ha, writeReg_ro ha]; rfl
  | rw => obtain rfl := eq_ctrl_of_access_rw ha; rfl
  | w1c => obtain rfl := eq_status_of_access_w1c ha; rfl
  | wo =>
    obtain rfl := eq_cmd_of_access_wo ha
    cases hb : s.isBusy with
    | true => rw [writeReg_busy (.inl ha) hb, writeReg_busy (s := s.withTrace b) (.inl ha) hb]; rfl
    | false => rw [writeReg_cmd_idle hb, writeReg_cmd_idle (s := s.withTrace b) hb]; rfl
  | rwGated =>
    cases hb : s.isBusy with
    | true => rw [writeReg_busy (.inr ha) hb, writeReg_busy (s := s.withTrace b) (.inr ha) hb]; rfl
    | false =>
      rw [writeReg_operand_idle ha hb, writeReg_operand_idle (s := s.withTrace b) ha hb]
      cases r <;> rfl

theorem writeOffset_withTrace (s : State) (b : Bool) (off : BitVec 8) (v : Word) :
    ((s.withTrace b).writeOffset off v).withTrace false = (s.writeOffset off v).withTrace false := by
  unfold State.writeOffset
  cases Reg.atOffset off with
  | none => rfl
  | some r => exact writeReg_withTrace s b v r

theorem hostRegRead_withTrace {w : Width} {off : BitVec 8} (hoff : off ≠ 0x04) (s : State) (b : Bool) :
    clearTrace ((s.withTrace b).hostRegRead w off) = clearTrace (s.hostRegRead w off) := by
  unfold State.hostRegRead
  rw [readOffset_withTrace hoff]
  split_ifs <;> rfl

theorem hostRegWrite_withTrace (w : Width) (off : BitVec 8) (v : Word) (s : State) (b : Bool) :
    clearTrace ((s.withTrace b).hostRegWrite w off v) = clearTrace (s.hostRegWrite w off v) := by
  unfold State.hostRegWrite
  split_ifs
  · exact congrArg (fun u : State => Host.Outcome.next (u.respond .written)) (writeOffset_withTrace s b off v)
  · rfl

theorem bufSize_withTrace (s : State) (b : Bool) : (s.withTrace b).bufSize = s.bufSize := rfl

theorem hostBufRead_withTrace (w : Width) (a : Nat) (s : State) (b : Bool) :
    clearTrace ((s.withTrace b).hostBufRead w a) = clearTrace (s.hostBufRead w a) := by
  unfold State.hostBufRead
  rw [bufSize_withTrace]
  split_ifs <;> rfl

theorem hazardByte_withTrace (s : State) (b : Bool) : (s.withTrace b).hazardByte = s.hazardByte := rfl

theorem hostBufWrite_withTrace (w : Width) (a : Nat) (v : Word) (s : State) (b : Bool) :
    clearTrace ((s.withTrace b).hostBufWrite w a v) = clearTrace (s.hostBufWrite w a v) := by
  unfold State.hostBufWrite
  rw [bufSize_withTrace, hazardByte_withTrace]
  split_ifs <;> rfl

theorem hostAccess_withTrace (f : State → Host.Outcome State Fault Refusal) (s : State) (b : Bool)
    (hf : ∀ u : State, clearTrace (f (u.withTrace b)) = clearTrace (f u)) :
    clearTrace ((s.withTrace b).hostAccess f) = clearTrace (s.hostAccess f) := by
  unfold State.hostAccess
  rw [show (s.withTrace b).host = s.host from rfl, show (s.withTrace b).inReset = s.inReset from rfl]
  cases s.host with
  | faulted c => rfl
  | running => cases s.inReset with
    | true => rfl
    | false => exact hf s.pop.tick

theorem hostPoll_withTrace (s : State) (b : Bool) :
    clearTrace ((s.withTrace b).hostPoll) = clearTrace s.hostPoll := by
  unfold State.hostPoll
  rw [show (s.withTrace b).host = s.host from rfl, show (s.withTrace b).inReset = s.inReset from rfl,
    show (s.withTrace b).isBusy = s.isBusy from rfl]
  cases s.host with
  | faulted c => rfl
  | running => cases s.inReset with
    | true => rfl
    | false => cases s.isBusy <;> rfl

theorem abortCommand_withTrace (s : State) (b : Bool) :
    (s.withTrace b).abortCommand = s.abortCommand.withTrace b := by
  unfold State.abortCommand
  rw [show (s.withTrace b).phase = s.phase from rfl]
  split
  · dsimp only
    rw [show (s.withTrace b).spanInBuf = s.spanInBuf from rfl]
    split_ifs <;> rfl
  · rfl

/-- An assertion of reset clears the trace flag with the other registers. -/
theorem assertReset_withTrace (s : State) (b : Bool) : (s.withTrace b).assertReset = s.assertReset := by
  rw [State.assertReset, abortCommand_withTrace]
  rfl

theorem hostStep_withTrace {e : HostEvent} (he : ∀ w, e ≠ .regRead w 0x04) (s : State) (b : Bool) :
    clearTrace ((s.withTrace b).hostStep e) = clearTrace (s.hostStep e) := by
  cases e with
  | regRead w off =>
    exact hostAccess_withTrace (fun u => u.hostRegRead w off) s b fun u =>
      hostRegRead_withTrace (fun h => he w (h ▸ rfl)) u b
  | regWrite w off v =>
    exact hostAccess_withTrace (fun u => u.hostRegWrite w off v) s b fun u => hostRegWrite_withTrace w off v u b
  | bufRead w a =>
    exact hostAccess_withTrace (fun u => u.hostBufRead w a) s b fun u => hostBufRead_withTrace w a u b
  | bufWrite w a v =>
    exact hostAccess_withTrace (fun u => u.hostBufWrite w a v) s b fun u => hostBufWrite_withTrace w a v u b
  | wait => exact hostPoll_withTrace s b
  | resetAssert => exact congrArg (fun u => clearTrace (.next u)) (assertReset_withTrace s.pop b)
  | resetRelease => rfl

/-- Settles O54: the completion and each event but a read of CTRL do the same to every other field. -/
theorem traceHasNoEffect : Obligations.TraceHasNoEffect := by
  intro s t b hstep hread
  apply exists_next_of_clearTrace_eq
  rw [← hstep]
  have hturn : (s.withTrace b).turn = s.turn := rfl
  cases h : s.turn with
  | engine w => rw [step_of_engine h, step_of_engine (hturn.trans h), runWord_withTrace]
  | idle => rw [step_of_idle h, step_of_idle (hturn.trans h)]; rfl
  | host e =>
    rw [step_of_host h, step_of_host (hturn.trans h)]
    exact hostStep_withTrace (fun w he => hread w (he ▸ h)) s b

end Sys2Proof.Machine
end
